-- ==== Sys2Proof/Word.lean ====
section
/-! DEFINITION. The word types of the frame codec block: the widths the spec fixes (00_scope.md R12). -/

namespace Sys2Proof

/-- A byte: 8 bits (R12, R13 `u8`). -/
abbrev Byte := BitVec 8

/-- A 16-bit value: an FCF word, a PAN ID, a `u16` operand (R12, R13). -/
abbrev Half := BitVec 16

/-- A `u32` operand: a duration or an error code (R37, R111). -/
abbrev Word32 := BitVec 32

/-- A `u64` operand: the value of a configuration write (R111 format `CCFG`). -/
abbrev Word64 := BitVec 64

end Sys2Proof
end

