-- ==== Sys2Proof/Syntax.lean ====
section
/-! DEFINITION. The operations of the block: one constructor for each row of spec/opcode_table.json, with the
operands its format gives it (30_encoding.md R111, R112). Operands are kept as the port carries them: a byte
that R115 calls illegal is still an operand, and the operation's own meaning answers `E_ILLEGAL_CMD`. -/

namespace Sys2Proof

/-- The eleven operand bytes of format `CFCF`, one per FCF field in the order of R95 (R111, R135). -/
structure FcfBytes where
  frameType : Byte
  securityEnabled : Byte
  framePending : Byte
  ackRequest : Byte
  panIdCompression : Byte
  reserved : Byte
  sequenceNumberSuppression : Byte
  informationElementsPresent : Byte
  destAddrMode : Byte
  frameVersion : Byte
  srcAddrMode : Byte
deriving DecidableEq, Repr

/-- Where an operation's encoding is met (R110, R112): the command port (groups 0x0_ to 0x3_), the event port
(group 0x4_), the sequencer's own internal steps (group 0x5_, never on a port), or the wire (the FCF layout
row, which is no operation). -/
inductive Port
  | command
  | event
  | internal
  | wire
deriving DecidableEq, Repr

/-- One operation of the block (R10: a command, an event or an internal step). -/
inductive Instr
  /-- `ADDR_LEN` m (R132). -/
  | addrLen (b : Byte)
  /-- `ADDR_MAKE` mode, b[0..7] (R133). -/
  | addrMake (mode : Byte) (bytes : List Byte)
  /-- `FCF_UNPACK` w (R134). -/
  | fcfUnpack (w : Half)
  /-- `FCF_PACK` fields (R135). -/
  | fcfPack (f : FcfBytes)
  /-- `PARSE` raw (R152). -/
  | parse (raw : List Byte)
  /-- `BUILD` frame, cap (R161), operands in the order of format `CF`. -/
  | build (cap : Half) (fcf : Half) (seq : Byte) (destPan : Half) (srcPan : Half) (destAddr : List Byte)
      (srcAddr : List Byte) (payload : List Byte)
  /-- `RB_WRITE` rb, b (R182). -/
  | rbWrite (rb : Byte) (b : Byte)
  /-- `RB_WRITE_ARRAY` rb, data (R184). -/
  | rbWriteArray (rb : Byte) (data : List Byte)
  /-- `RB_READ` rb (R185). -/
  | rbRead (rb : Byte)
  /-- `RB_READ_ARRAY` rb, n (R187). -/
  | rbReadArray (rb : Byte) (n : Half)
  /-- `RB_PEEK` rb (R188). -/
  | rbPeek (rb : Byte)
  /-- `RB_AVAILABLE` rb (R189). -/
  | rbAvailable (rb : Byte)
  /-- `RB_AVAILABLE_FOR_WRITE` rb (R190). -/
  | rbAvailableForWrite (rb : Byte)
  /-- `RB_IS_FULL` rb (R191). -/
  | rbIsFull (rb : Byte)
  /-- `RB_IS_EMPTY` rb (R192). -/
  | rbIsEmpty (rb : Byte)
  /-- `RB_RESIZE` rb, n (R193). -/
  | rbResize (rb : Byte) (n : Half)
  /-- `CFG_WRITE` idx, val (R210). -/
  | cfgWrite (idx : Byte) (val : Word64)
  /-- `T_BEGIN` (R211). -/
  | tBegin
  /-- `T_END` (R212). -/
  | tEnd
  /-- `T_WRITE` b (R214). -/
  | tWrite (b : Byte)
  /-- `T_FLUSH` (R215). -/
  | tFlush
  /-- `T_RECEIVE` (R251). -/
  | tReceive
  /-- `T_READ` (R264). -/
  | tRead
  /-- `T_READ_BYTES` n, timeout (R265). -/
  | tReadBytes (n : Half) (timeout : Word32)
  /-- `T_AVAILABLE` (R268). -/
  | tAvailable
  /-- `T_META` (R269). -/
  | tMeta
  /-- `EV_TX_DONE` (R224). -/
  | evTxDone
  /-- `EV_TX_FAILED` errorCode (R225). -/
  | evTxFailed (errorCode : Word32)
  /-- `EV_ACK_TIMEOUT` (R227). -/
  | evAckTimeout
  /-- `EV_RETRY_DELAY_DONE` (R228). -/
  | evRetryDelayDone
  /-- `EV_READ_TIMEOUT` (R267). -/
  | evReadTimeout
  /-- `EV_RX_ENQUEUE` raw, rssi, lqi, channel (R263). -/
  | evRxEnqueue (raw : List Byte) (rssi : Byte) (lqi : Byte) (channel : Byte)
  /-- `SEND_NOCONF` (R219). -/
  | sendNoconf
  /-- `SEND_CONF` (R220). -/
  | sendConf
  /-- `ARQ_ISSUE` (R223). -/
  | arqIssue
  /-- `ARQ_DECIDE` (R229). -/
  | arqDecide
  /-- `SEQ_VALIDATE` (R254). -/
  | seqValidate
  /-- `RD_STEP` (R266). -/
  | rdStep
  /-- `DRAIN` (R217). -/
  | drain
  /-- `FCF_WORD` (R95): the table's layout row for the FCF as it stands on the wire; no operation. -/
  | fcfWord (w : Half)
deriving DecidableEq, Repr

/-- The port an operation's encoding belongs to (R110, R112). -/
def Instr.port : Instr → Port
  | .addrLen _ | .addrMake _ _ | .fcfUnpack _ | .fcfPack _ => .command
  | .parse _ | .build _ _ _ _ _ _ _ _ => .command
  | .rbWrite _ _ | .rbWriteArray _ _ | .rbRead _ | .rbReadArray _ _ | .rbPeek _ => .command
  | .rbAvailable _ | .rbAvailableForWrite _ | .rbIsFull _ | .rbIsEmpty _ | .rbResize _ _ => .command
  | .cfgWrite _ _ | .tBegin | .tEnd | .tWrite _ | .tFlush => .command
  | .tReceive | .tRead | .tReadBytes _ _ | .tAvailable | .tMeta => .command
  | .evTxDone | .evTxFailed _ | .evAckTimeout | .evRetryDelayDone | .evReadTimeout => .event
  | .evRxEnqueue _ _ _ _ => .event
  | .sendNoconf | .sendConf | .arqIssue | .arqDecide | .seqValidate | .rdStep | .drain => .internal
  | .fcfWord _ => .wire

end Sys2Proof
end

