-- ==== Sys2Proof/WellFormed.lean ====
section
/-! DEFINITION. Which terms of `Instr` an encoding can carry: the byte sequences have the lengths their format
gives them (30_encoding.md R111). An operand VALUE that R115 calls illegal is well formed: it can be sent, and
is answered `E_ILLEGAL_CMD`. -/

namespace Sys2Proof

/-- The lengths that the formats of R111 fix or bound: `bytes(8)` is eight bytes, `n:u16` counts at most
65535 bytes, `plen:u8` at most 255. -/
def Instr.wellFormed : Instr → Bool
  | .addrMake _ bytes => bytes.length == 8
  | .parse raw => decide (raw.length < 65536)
  | .build _ _ _ _ _ destAddr srcAddr payload =>
      destAddr.length == 8 && srcAddr.length == 8 && decide (payload.length < 256)
  | .rbWriteArray _ data => decide (data.length < 65536)
  | .evRxEnqueue raw _ _ _ => decide (raw.length < 65536)
  | .addrLen _ | .fcfUnpack _ | .fcfPack _ | .rbWrite _ _ | .rbRead _ | .rbReadArray _ _ | .rbPeek _ => true
  | .rbAvailable _ | .rbAvailableForWrite _ | .rbIsFull _ | .rbIsEmpty _ | .rbResize _ _ => true
  | .cfgWrite _ _ | .tBegin | .tEnd | .tWrite _ | .tFlush | .tReceive | .tRead | .tReadBytes _ _ => true
  | .tAvailable | .tMeta | .evTxDone | .evTxFailed _ | .evAckTimeout | .evRetryDelayDone => true
  | .evReadTimeout | .sendNoconf | .sendConf | .arqIssue | .arqDecide | .seqValidate | .rdStep => true
  | .drain | .fcfWord _ => true

/-- An instruction that an encoding can carry. -/
abbrev Instr.WellFormed (i : Instr) : Prop := i.wellFormed = true

end Sys2Proof
end

