-- ==== Sys2Proof/Decode.lean ====
section
/-! DEFINITION. The command, event and internal encodings of 30_encoding.md R110 to R113 read and written:
byte-order helpers, the decoder (total on any bytes, rejecting by name) and the encoder. -/

namespace Sys2Proof

/-! ### Byte order (R14, R60) -/

/-- `le16(b0, b1) = b0 + 256 * b1` (R14). -/
def le16 (b0 b1 : Byte) : Half := BitVec.ofNat 16 (b0.toNat + 256 * b1.toNat)

/-- `lo8(w) = w mod 256` (R14). -/
def lo8 (w : Half) : Byte := BitVec.ofNat 8 (w.toNat % 256)

/-- `hi8(w) = w div 256` (R14). -/
def hi8 (w : Half) : Byte := BitVec.ofNat 8 (w.toNat / 256)

/-- The natural a little-endian byte sequence stands for (R110). -/
def leNat : List Byte → Nat
  | [] => 0
  | b :: bs => b.toNat + 256 * leNat bs

/-- The `k` little-endian bytes of a natural (R110). -/
def leBytes : Nat → Nat → List Byte
  | 0, _ => []
  | k + 1, v => BitVec.ofNat 8 v :: leBytes k (v / 256)

/-- The two bytes of a 16-bit value, the low one first (R60). -/
def halfBytes (w : Half) : List Byte := [lo8 w, hi8 w]

/-- A byte sequence with its length before it as a `u16` (formats `CS`, `CRS`, `EVRX` of R111; R114). -/
def countedBytes (bs : List Byte) : List Byte := leBytes 2 bs.length ++ bs

/-- The first `k` bytes and the rest, where there are that many. -/
def splitBytes (k : Nat) (bs : List Byte) : Option (List Byte × List Byte) :=
  if bs.length < k then none else some (bs.take k, bs.drop k)

/-! ### Operand formats (R111) -/

/-- Why bytes are no instruction (R115). -/
inductive DecodeError
  /-- No opcode byte at all. -/
  | noOpcode
  /-- "An opcode byte not in rule R112". -/
  | unknownOpcode (op : Byte)
  /-- "operand bytes are too few ... for its format". -/
  | tooFew
  /-- "operand bytes are ... too many for its format". -/
  | tooMany
  /-- "an opcode of group 0x5_ presented on a port", or an opcode met on the other port (R110, R295). -/
  | wrongPort
deriving DecidableEq, Repr

/-- What reading operands gives: the instruction and the bytes left over, or a rejection. -/
inductive Operanded
  | ok (i : Instr) (rest : List Byte)
  | rejected (e : DecodeError)
deriving DecidableEq, Repr

/-- What decoding a whole message gives. -/
inductive Decoded
  | accepted (i : Instr)
  | rejected (e : DecodeError)
deriving DecidableEq, Repr

/-- Formats `C0`, `EV0` and `INT`: no operand. -/
def formatC0 (i : Instr) (bs : List Byte) : Operanded := .ok i bs

/-- Formats `CB` and `CR`: one byte. -/
def formatCB (f : Byte → Instr) : List Byte → Operanded
  | b :: bs => .ok (f b) bs
  | [] => .rejected .tooFew

/-- Format `CRB`: two bytes. -/
def formatCRB (f : Byte → Byte → Instr) : List Byte → Operanded
  | b0 :: b1 :: bs => .ok (f b0 b1) bs
  | _ => .rejected .tooFew

/-- Format `CW`: a `u16`. -/
def formatCW (f : Half → Instr) : List Byte → Operanded
  | b0 :: b1 :: bs => .ok (f (le16 b0 b1)) bs
  | _ => .rejected .tooFew

/-- Format `CFCF`: eleven bytes, one per FCF field. -/
def formatCFCF (f : FcfBytes → Instr) : List Byte → Operanded
  | b0 :: b1 :: b2 :: b3 :: b4 :: b5 :: b6 :: b7 :: b8 :: b9 :: b10 :: bs =>
      .ok (f ⟨b0, b1, b2, b3, b4, b5, b6, b7, b8, b9, b10⟩) bs
  | _ => .rejected .tooFew

/-- `bytes(k)` and what follows it. -/
def takeField (k : Nat) (bs : List Byte) (f : List Byte → List Byte → Operanded) : Operanded :=
  match splitBytes k bs with
  | some (field, rest) => f field rest
  | none => .rejected .tooFew

/-- `n:u16, bytes(n)` and what follows it. -/
def takeCounted (bs : List Byte) (f : List Byte → List Byte → Operanded) : Operanded :=
  match bs with
  | b0 :: b1 :: bs => takeField (le16 b0 b1).toNat bs f
  | _ => .rejected .tooFew

/-- Format `CADDR`: mode:u8, bytes(8). -/
def formatCADDR (f : Byte → List Byte → Instr) : List Byte → Operanded
  | m :: bs => takeField 8 bs fun addr rest => .ok (f m addr) rest
  | [] => .rejected .tooFew

/-- Format `CS`: n:u16, bytes(n). -/
def formatCS (f : List Byte → Instr) (bs : List Byte) : Operanded :=
  takeCounted bs fun data rest => .ok (f data) rest

/-- Format `CF`: cap, fcf, seq, destPan, srcPan, destAddr:bytes(8), srcAddr:bytes(8), plen:u8, payload. -/
def formatCF (f : Half → Half → Byte → Half → Half → List Byte → List Byte → List Byte → Instr) :
    List Byte → Operanded
  | c0 :: c1 :: w0 :: w1 :: q :: d0 :: d1 :: s0 :: s1 :: bs =>
      takeField 8 bs fun dest bs =>
        takeField 8 bs fun src bs =>
          match bs with
          | plen :: bs =>
              takeField plen.toNat bs fun payload rest =>
                .ok (f (le16 c0 c1) (le16 w0 w1) q (le16 d0 d1) (le16 s0 s1) dest src payload) rest
          | [] => .rejected .tooFew
  | _ => .rejected .tooFew

/-- Format `CRN`: rb:u8, n:u16. -/
def formatCRN (f : Byte → Half → Instr) : List Byte → Operanded
  | rb :: n0 :: n1 :: bs => .ok (f rb (le16 n0 n1)) bs
  | _ => .rejected .tooFew

/-- Format `CRS`: rb:u8, n:u16, bytes(n). -/
def formatCRS (f : Byte → List Byte → Instr) : List Byte → Operanded
  | rb :: bs => takeCounted bs fun data rest => .ok (f rb data) rest
  | [] => .rejected .tooFew

/-- Format `CN`: n:u16, timeout:u32. -/
def formatCN (f : Half → Word32 → Instr) : List Byte → Operanded
  | n0 :: n1 :: t0 :: t1 :: t2 :: t3 :: bs =>
      .ok (f (le16 n0 n1) (BitVec.ofNat 32 (leNat [t0, t1, t2, t3]))) bs
  | _ => .rejected .tooFew

/-- Format `CCFG`: idx:u8, val:u64. -/
def formatCCFG (f : Byte → Word64 → Instr) : List Byte → Operanded
  | idx :: v0 :: v1 :: v2 :: v3 :: v4 :: v5 :: v6 :: v7 :: bs =>
      .ok (f idx (BitVec.ofNat 64 (leNat [v0, v1, v2, v3, v4, v5, v6, v7]))) bs
  | _ => .rejected .tooFew

/-- Format `EVE`: errorCode:u32. -/
def formatEVE (f : Word32 → Instr) : List Byte → Operanded
  | t0 :: t1 :: t2 :: t3 :: bs => .ok (f (BitVec.ofNat 32 (leNat [t0, t1, t2, t3]))) bs
  | _ => .rejected .tooFew

/-- Format `EVRX`: n:u16, bytes(n), rssi:u8, lqi:u8, channel:u8. -/
def formatEVRX (f : List Byte → Byte → Byte → Byte → Instr) (bs : List Byte) : Operanded :=
  takeCounted bs fun raw bs =>
    match bs with
    | rssi :: lqi :: channel :: rest => .ok (f raw rssi lqi channel) rest
    | _ => .rejected .tooFew

/-! ### The opcode map (R112) -/

/-- The operands of opcode `op`, read from the bytes after it. -/
def decodeOperands (op : Byte) (bs : List Byte) : Operanded :=
  match op.toNat with
  | 0x01 => formatCB .addrLen bs
  | 0x02 => formatCADDR .addrMake bs
  | 0x03 => formatCW .fcfUnpack bs
  | 0x04 => formatCFCF .fcfPack bs
  | 0x10 => formatCS .parse bs
  | 0x11 => formatCF .build bs
  | 0x20 => formatCRB .rbWrite bs
  | 0x21 => formatCRS .rbWriteArray bs
  | 0x22 => formatCB .rbRead bs
  | 0x23 => formatCRN .rbReadArray bs
  | 0x24 => formatCB .rbPeek bs
  | 0x25 => formatCB .rbAvailable bs
  | 0x26 => formatCB .rbAvailableForWrite bs
  | 0x27 => formatCB .rbIsFull bs
  | 0x28 => formatCB .rbIsEmpty bs
  | 0x29 => formatCRN .rbResize bs
  | 0x30 => formatCCFG .cfgWrite bs
  | 0x31 => formatC0 .tBegin bs
  | 0x32 => formatC0 .tEnd bs
  | 0x33 => formatCB .tWrite bs
  | 0x34 => formatC0 .tFlush bs
  | 0x35 => formatC0 .tReceive bs
  | 0x36 => formatC0 .tRead bs
  | 0x37 => formatCN .tReadBytes bs
  | 0x38 => formatC0 .tAvailable bs
  | 0x39 => formatC0 .tMeta bs
  | 0x40 => formatC0 .evTxDone bs
  | 0x41 => formatEVE .evTxFailed bs
  | 0x42 => formatC0 .evAckTimeout bs
  | 0x43 => formatC0 .evRetryDelayDone bs
  | 0x44 => formatC0 .evReadTimeout bs
  | 0x45 => formatEVRX .evRxEnqueue bs
  | 0x50 => formatC0 .sendNoconf bs
  | 0x51 => formatC0 .sendConf bs
  | 0x52 => formatC0 .arqIssue bs
  | 0x53 => formatC0 .arqDecide bs
  | 0x54 => formatC0 .seqValidate bs
  | 0x55 => formatC0 .rdStep bs
  | 0x56 => formatC0 .drain bs
  | _ => .rejected (.unknownOpcode op)

/-- An instruction at the start of a byte sequence: its opcode byte, its operands, and the bytes left over. -/
def decodeFirst : List Byte → Operanded
  | [] => .rejected .noOpcode
  | op :: bs => decodeOperands op bs

/-- A whole message met at port `p`: exactly one instruction of that port, with no byte too many (R115). On
the wire a message is the two bytes of an FCF word (R96). -/
def decodeOn (p : Port) (msg : List Byte) : Decoded :=
  match p with
  | .wire =>
      match msg with
      | [b0, b1] => .accepted (.fcfWord (le16 b0 b1))
      | _ :: _ :: _ :: _ => .rejected .tooMany
      | _ => .rejected .tooFew
  | p =>
      match decodeFirst msg with
      | .rejected e => .rejected e
      | .ok i rest =>
          if i.port ≠ p then .rejected .wrongPort
          else if rest ≠ [] then .rejected .tooMany
          else .accepted i

/-! ### The encoder -/

/-- The bytes of an instruction: opcode (R112), then its operands in the layout of its format (R111). -/
def encode : Instr → List Byte
  | .addrLen b => [0x01, b]
  | .addrMake mode bytes => 0x02 :: mode :: bytes
  | .fcfUnpack w => 0x03 :: halfBytes w
  | .fcfPack f =>
      [0x04, f.frameType, f.securityEnabled, f.framePending, f.ackRequest, f.panIdCompression, f.reserved,
        f.sequenceNumberSuppression, f.informationElementsPresent, f.destAddrMode, f.frameVersion,
        f.srcAddrMode]
  | .parse raw => 0x10 :: countedBytes raw
  | .build cap fcf seq destPan srcPan destAddr srcAddr payload =>
      0x11 :: (halfBytes cap ++ halfBytes fcf ++ [seq] ++ halfBytes destPan ++ halfBytes srcPan ++ destAddr
        ++ srcAddr ++ [BitVec.ofNat 8 payload.length] ++ payload)
  | .rbWrite rb b => [0x20, rb, b]
  | .rbWriteArray rb data => 0x21 :: rb :: countedBytes data
  | .rbRead rb => [0x22, rb]
  | .rbReadArray rb n => 0x23 :: rb :: halfBytes n
  | .rbPeek rb => [0x24, rb]
  | .rbAvailable rb => [0x25, rb]
  | .rbAvailableForWrite rb => [0x26, rb]
  | .rbIsFull rb => [0x27, rb]
  | .rbIsEmpty rb => [0x28, rb]
  | .rbResize rb n => 0x29 :: rb :: halfBytes n
  | .cfgWrite idx val => 0x30 :: idx :: leBytes 8 val.toNat
  | .tBegin => [0x31]
  | .tEnd => [0x32]
  | .tWrite b => [0x33, b]
  | .tFlush => [0x34]
  | .tReceive => [0x35]
  | .tRead => [0x36]
  | .tReadBytes n timeout => 0x37 :: (halfBytes n ++ leBytes 4 timeout.toNat)
  | .tAvailable => [0x38]
  | .tMeta => [0x39]
  | .evTxDone => [0x40]
  | .evTxFailed errorCode => 0x41 :: leBytes 4 errorCode.toNat
  | .evAckTimeout => [0x42]
  | .evRetryDelayDone => [0x43]
  | .evReadTimeout => [0x44]
  | .evRxEnqueue raw rssi lqi channel => 0x45 :: (countedBytes raw ++ [rssi, lqi, channel])
  | .sendNoconf => [0x50]
  | .sendConf => [0x51]
  | .arqIssue => [0x52]
  | .arqDecide => [0x53]
  | .seqValidate => [0x54]
  | .rdStep => [0x55]
  | .drain => [0x56]
  | .fcfWord w => halfBytes w

/-! ### The opcode table's words -/

/-- The bytes of a table word: its `nbits / 8` low bytes, the least significant first, then the operand
bytes above it, all zero (as many as the longest instruction such a word can begin). -/
def tableBytes (nbits w : Nat) : List Byte :=
  leBytes (nbits / 8) w ++ List.replicate (if nbits ≤ 8 then 32 else 65600) 0

/-- The instruction the decoder reads from a word of spec/opcode_table.json. The operation rows have 8 bits,
the FCF layout row 16: the latter is met on the wire. -/
def decodeTableWord (nbits w : Nat) : Option Instr :=
  if nbits = 16 then
    match decodeOn .wire (leBytes 2 w) with
    | .accepted i => some i
    | .rejected _ => none
  else
    match decodeFirst (tableBytes nbits w) with
    | .ok i _ => some i
    | .rejected _ => none

end Sys2Proof
end

