-- ==== Sys2Proof/Config.lean ====
section
/-! DEFINITION. What an implementation of the block fixes (00_scope.md R11, 10_state.md R42) and the free
values: what the spec leaves unspecified. A free value is an `opaque` constant with no body, so nothing can be
proved of the value itself; a statement about it holds for every value. -/

namespace Sys2Proof.Config

/-! ### Parameters of the block (R11) -/

/-- `HDR_MAX`, the largest header: 2 + 1 + 2 + 8 + 2 + 8 (R11). -/
def hdrMax : Nat := 23

/-- The implementation's choice behind `MTU`. R11 and D40 leave the parameter open within 1..230. -/
opaque mtuChoice : Nat

/-- `MTU`, the largest payload of a frame the transport builds: any value with `1 ≤ MTU ≤ 230` (R11, D40).
The reference configuration's 116 is one of them (notes/assumptions/1.md). -/
def mtu : Nat := mtuChoice % 230 + 1

/-- `FRAME_MAX`, the capacity of `TXFRAME`: `MTU + HDR_MAX + 2` (R11, D9). -/
def frameMax : Nat := mtu + hdrMax + 2

/-- `RB_CAP_MAX`, the largest capacity of a ring buffer (R11, D12). -/
def rbCapMax : Nat := 65535

/-- `SEQ_INIT`, the first outbound sequence number of a session (R11, D15). -/
def seqInit : Byte := 0

/-- `PEND_BUF` holds 251 bytes (R31). -/
def pendMax : Nat := 251

/-- `ACK_MARGIN`, added to `ACK_WAIT` when the acknowledgment timer is armed (R11, R227): a duration the
source does not give. -/
opaque ackMargin : Nat

/-- `READ_TIMEOUT`, the timeout `T_READ` hands to the timer agent (R11, R264). -/
opaque readTimeout : Word32

/-- `RX_POLL_TIMEOUT`, the short timeout `receiveNext` is called with (R11, R252); no rule computes with it. -/
opaque rxPollTimeout : Nat

/-- `POLL_SLEEP`, the sleep between polls of the acknowledgment wait (R11, R226): unobservable, no rule
uses it. -/
opaque pollSleep : Nat

/-! ### Free values. The first argument is the value of the model's own counter `State.free`, except where
said. -/

/-- `LAST_SEQ` where R41 calls it unspecified. -/
opaque freeLastSeq : Nat → Byte

/-- `PEND_LEN` where R41 calls it unspecified (taken modulo 252, the range R31 gives). -/
opaque freePendLen : Nat → Nat

/-- `PEND_OFF` where R41 calls it unspecified (taken modulo 252, the range R31 gives). -/
opaque freePendOff : Nat → Nat

/-- `RX_RSSI` where R41 calls it unspecified. -/
opaque freeRssi : Nat → Byte

/-- `RX_LQI` where R41 calls it unspecified. -/
opaque freeLqi : Nat → Byte

/-- `RX_CHANNEL` where R41 calls it unspecified. -/
opaque freeChannel : Nat → Byte

/-- The configuration register of the second argument's index after a hardware reset (R41, R320). -/
opaque freeCfg : Nat → Nat → Word64

/-- The bytes of an 8-byte address field of a `PARSE` response beyond the address's own bytes. R114 sends
the field in the layout of format `CF` and states no value for them. The first argument is the number of the
response, the second the place in the two address fields (0..7 destination, 8..15 source). -/
opaque addrPad : Nat → Nat → Byte

/-- Which entry of `INFLIGHT` a transmit notification reports: an index into the list (R39, R304). An index
beyond the list reports an attempt that is not in it (one the radio refused, U6). -/
opaque reportedAttempt : Nat → Nat

end Sys2Proof.Config
end

