-- ==== Sys2Proof/Machine/State.lean ====
section
/-! DEFINITION. The state of the frame codec block as plain data: every register and buffer of 10_state.md
(R20 to R41), the environment's state it depends on (R39), the ports, and the model's own fields, each marked
as such. Registers are grouped as 10_state.md groups them, so that the independence of the two directions
(R73) can be said of whole groups. -/

namespace Sys2Proof.Machine

/-! ### Value types (R21 to R23, R99) -/

/-- The mode of an `Address`: "mode ∈ {None, Short(2B), Extended(8B)}" (R21). -/
inductive AddrMode
  | none
  | short
  | extended
deriving DecidableEq, Repr

/-- A 2-bit address-mode field: None 0, Reserved 1, Short 2, Extended 3 (R99). -/
inductive AddrField
  | none
  | reserved
  | short
  | extended
deriving DecidableEq, Repr

/-- An `Address`: its mode and its meaningful bytes, as many as the mode says (R21). -/
structure Address where
  mode : AddrMode
  bytes : List Byte
deriving DecidableEq, Repr

/-- The eleven fields of an FCF, "16 bits total" (R22, R95). -/
structure Fcf where
  frameType : BitVec 3
  securityEnabled : BitVec 1
  framePending : BitVec 1
  ackRequest : BitVec 1
  panIdCompression : BitVec 1
  reserved : BitVec 1
  sequenceNumberSuppression : BitVec 1
  informationElementsPresent : BitVec 1
  destAddrMode : BitVec 2
  frameVersion : BitVec 2
  srcAddrMode : BitVec 2
deriving DecidableEq, Repr

/-- A `Frame` (R23). The FCF is held as its 16-bit word, which R22 allows; `rssi` and `lqi` travel beside the
frame, in `InFrame` and in the metadata registers (R35). -/
structure Frame where
  fcf : Half
  seq : Byte
  destPan : Half
  srcPan : Half
  dest : Address
  src : Address
  payload : List Byte
deriving DecidableEq, Repr

/-! ### Byte buffers (R25, R40) -/

/-- A byte buffer: the bytes written, by index, strictly rising, and none equal to what an index that is not
listed reads as (`Memory.unlisted`). Each buffer of R40 is an address space of its own. -/
abbrev Memory := List Host.Cell

/-- What an index nothing has written reads as. The spec leaves such a byte unspecified and lets a model zero
it (U3); no operation reads one (R27). -/
def Memory.unlisted : Byte := 0

/-- A ring buffer's registers and storage (R25). -/
structure RingBuffer where
  /-- `rb.C`. -/
  cap : Nat
  /-- The index of the oldest byte. -/
  head : Nat
  /-- The index the next byte goes to. -/
  tail : Nat
  count : Nat
  store : Memory
deriving DecidableEq, Repr

/-! ### Codes -/

/-- `ARQ_STATE` (R32). -/
inductive ArqState
  | idle
  | waiting
  | confirmed
  | failed
deriving DecidableEq, Repr

/-- `APP_CMD` (R34). -/
inductive AppCmd
  | none
  | write
  | flush
  | read
deriving DecidableEq, Repr

/-- The twelve status codes of R281. -/
inductive Status
  | ok
  | malformed
  | txFailed
  | ackTimeout
  | backpressure
  | duplicate
  | seqGap
  | dropped
  | buildOverflow
  | refused
  | illegalCmd
  | noFrame
deriving DecidableEq, Repr

/-- What `SEQ_VALIDATE` returns (R254). -/
inductive Verdict
  | accept
  | duplicate
deriving DecidableEq, Repr

/-! ### Registers -/

/-- The configuration registers, index 0 to 10 (R37). -/
structure CfgRegs where
  panId : Half
  localAddrMode : BitVec 2
  localAddrVal : Word64
  destAddrMode : BitVec 2
  destAddrVal : Word64
  fcfTmpl : Half
  ackWait : Word32
  retryCount : Byte
  retryDelay : Word32
  rxCap : Half
  txCap : Half
deriving DecidableEq, Repr

/-- The registers and buffers of the transmit path (R29, R30, R32). -/
structure TxRegs where
  txb : RingBuffer
  outSeq : Byte
  arqState : ArqState
  sendActive : Bool
  retriesLeft : Nat
  delayArmed : Bool
  ackTimerArmed : Bool
  txFrame : Memory
  txFrameLen : Nat
deriving DecidableEq, Repr

/-- The registers and buffers of the receive path (R29, R30, R31, R35). -/
structure RxRegs where
  rxb : RingBuffer
  lastSeqValid : Bool
  lastSeq : Byte
  pendValid : Bool
  pendBuf : Memory
  pendLen : Nat
  pendOff : Nat
  rssi : Byte
  lqi : Byte
  channel : Byte
  metaValid : Bool
deriving DecidableEq, Repr

/-- The registers of a read in progress (R33). -/
structure RdRegs where
  active : Bool
  want : Nat
  got : Nat
  data : List Byte
  timerArmed : Bool
  expired : Bool
deriving DecidableEq, Repr

/-- The operands and results that the internal operations hand to the step they are part of (R217, R219,
R220, R254). THE MODEL'S OWN: the spec passes them as arguments; they are empty at every step boundary. -/
structure Latches where
  /-- A `T_WRITE` or `T_FLUSH` step has asked for `DRAIN`. -/
  drainReq : Bool
  /-- The chunk `DRAIN` returned, the operand of `SEND_NOCONF` or `SEND_CONF`. -/
  chunk : Option (List Byte)
  /-- The frame handed to `SEQ_VALIDATE`. -/
  rxFrame : Option Frame
  /-- What `SEQ_VALIDATE` returned. -/
  verdict : Option Verdict
deriving DecidableEq, Repr

/-! ### The environment and the ports -/

/-- An element of `INQ`: the raw bytes and the metadata triple (R39, R263). -/
structure InFrame where
  raw : List Byte
  rssi : Byte
  lqi : Byte
  channel : Byte
deriving DecidableEq, Repr

/-- The environment's state (R39): what the radio agent and the timer agent hold. -/
structure Env where
  /-- `INQ`, oldest first. -/
  inq : List InFrame
  /-- `INFLIGHT`, the accepted attempts not yet reported. -/
  inflight : List (List Byte)
  /-- The duration last handed to the timer agent for the acknowledgment timer (R227). -/
  ackDuration : Nat
  /-- The duration last handed to the timer agent for the retry delay (R296). -/
  delayDuration : Nat
  /-- The duration last handed to the timer agent for the read timer (R265). -/
  readDuration : Nat
deriving DecidableEq, Repr

/-- One call of `transmit`: the bytes handed over and whether the radio answered ok (R300). -/
structure TxCall where
  frame : List Byte
  ok : Bool
deriving DecidableEq, Repr

/-- One record of the diagnostic output (R306): a code and its info values (R281). -/
structure Diag where
  code : Status
  info : List Nat
deriving DecidableEq, Repr

/-- Whose turn a step is (R18, R70). -/
inductive Slot
  /-- The application agent issues the oldest command of the command port. -/
  | command
  /-- The radio or timer agent delivers the oldest event of the event port. -/
  | event
  /-- The sequencer runs the internal step of this opcode (group 0x5_). -/
  | internal (op : Byte)
  /-- The table's layout row, read as if it were an operation. -/
  | wire (w : Half)
  /-- The reset input is asserted (R320). -/
  | reset
deriving DecidableEq, Repr

/-- One turn of the schedule, with the answer the radio agent gives if the step calls `transmit`: the answer
is an input of the step that makes the call (R17, R42). -/
structure Turn where
  slot : Slot
  txAnswer : Bool
deriving DecidableEq, Repr

/-- The ports and outward interfaces (R297). THE MODEL'S OWN FORM: what the agents are still to do (the
program, the events, the schedule of R42) is held as lists, oldest first, and what the block has put out is
kept in the order it came. -/
structure Ports where
  /-- Messages the application agent has yet to present on the command port. -/
  cmdPort : List (List Byte)
  /-- Messages the radio and timer agents have yet to present on the event port. -/
  evPort : List (List Byte)
  /-- The turns still to be taken. -/
  schedule : List Turn
  /-- The radio agent's answer to a `transmit` call made in this step. -/
  txAnswer : Bool
  /-- The responses sent, each a status byte and its result bytes (R114). -/
  cmdOut : List (List Byte)
  /-- The records put on `DIAG` (R306). -/
  diag : List Diag
  /-- The calls of `transmit` made (R300). -/
  txCalls : List TxCall
  /-- How many times `receiveNext` was called (R303). -/
  rxCalls : Nat
deriving DecidableEq, Repr

/-- The whole state. -/
structure State where
  /-- `LIVE` (R30). -/
  live : Bool
  /-- `APP_CMD` (R34). -/
  appCmd : AppCmd
  cfg : CfgRegs
  tx : TxRegs
  rx : RxRegs
  rd : RdRegs
  /-- `UB`, the user ring buffer (R29). -/
  ub : RingBuffer
  latch : Latches
  env : Env
  io : Ports
  /-- THE MODEL'S OWN: the number of the next free value. -/
  free : Nat
deriving DecidableEq, Repr

/-- Why the block stops with a fault. No step from a reachable state raises one. -/
inductive Fault
  /-- Raised by `SEND_NOCONF`, `SEND_CONF`, and by the `T_WRITE` or `T_FLUSH` step they are part of, when the
  frame of the chunk does not fit in `TXFRAME`. R216 shows that it cannot happen to a chunk that `DRAIN`
  returned; the source calls such a build undefined (U1). Safe: the model stops. -/
  | frameOverflow
deriving DecidableEq, Repr

/-- Why a term of `Instr` has no meaning. -/
inductive Refusal
  /-- Raised by `exec` for an instruction the model gives no meaning yet. Safe: the model stops. No arm of
  `exec` answers it. -/
  | notModelled (mnemonic : String)
  /-- Raised for the opcode table's layout row `FCF_WORD`: "wire field layout, not an operation" (R95). Safe:
  the model stops. -/
  | notAnOperation
deriving DecidableEq, Repr

/-! ### Reset (R41, R320) -/

/-- A ring buffer of capacity 0: `C, head, tail, count = 0, 0, 0, 0` (R41). -/
def RingBuffer.empty : RingBuffer := ⟨0, 0, 0, 0, []⟩

/-- The configuration registers after reset. R41 gives them no value: zero, DESIGN CHOICE
(notes/assumptions/3.md). Zero is a legal mode. -/
def CfgRegs.reset : CfgRegs := ⟨0, 0, 0, 0, 0, 0, 0, 0, 0, 0, 0⟩

/-- The transmit registers after reset (R41); the bytes of `TXFRAME` are unspecified. -/
def TxRegs.reset : TxRegs := ⟨.empty, 0, .idle, false, 0, false, false, [], 0⟩

/-- The receive registers after reset (R41). `LAST_SEQ`, `PEND_LEN`, `PEND_OFF` and the metadata values are
unspecified: zero, DESIGN CHOICE (notes/assumptions/4.md). -/
def RxRegs.reset : RxRegs := ⟨.empty, false, 0, false, [], 0, 0, 0, 0, 0, false⟩

/-- The read registers after reset (R41). -/
def RdRegs.reset : RdRegs := ⟨false, 0, 0, [], false, false⟩

/-- No operand waits between internal operations. -/
def Latches.clear : Latches := ⟨false, none, none, none⟩

/-- The machine right after reset (R41, R320), in an environment that holds nothing and has done nothing:
"the block is idle with the command port free ... and does nothing until a command or an event arrives"
(R321). -/
def State.reset : State where
  live := false
  appCmd := .none
  cfg := .reset
  tx := .reset
  rx := .reset
  rd := .reset
  ub := .empty
  latch := .clear
  env := ⟨[], [], 0, 0, 0⟩
  io := ⟨[], [], [], false, [], [], [], 0⟩
  free := 0

end Sys2Proof.Machine
end

