-- ==== Sys2Proof/Machine/Ops.lean ====
section
/-! DEFINITION. The named operations over buffers and registers: reading and writing a byte buffer, the ring
buffer of 42_ringbuffer.md, answering a command, raising an error (R17, R292), the diagnostic output, the
radio call interface, and the session's start and end values (R41). -/

namespace Sys2Proof.Machine

/-! ### Byte buffers -/

/-- The byte at index `x`. -/
def Memory.read : Memory → Nat → Byte
  | [], _ => Memory.unlisted
  | (a, b) :: m, x => if x = a then b else Memory.read m x

/-- A cell in front of the rest, unless it says what an unlisted index reads as. -/
def Memory.cell (a : Nat) (v : Byte) (m : Memory) : Memory :=
  if v = Memory.unlisted then m else (a, v) :: m

/-- `BUF[a] <- v`, keeping the canonical form. -/
def Memory.write : Memory → Nat → Byte → Memory
  | [], a, v => Memory.cell a v []
  | (x, b) :: m, a, v =>
      if a < x then Memory.cell a v ((x, b) :: m)
      else if a = x then Memory.cell a v m
      else (x, b) :: Memory.write m a v

/-- `BUF[a .. a + len(bs)) <- bs`. -/
def Memory.writeBytes : Memory → Nat → List Byte → Memory
  | m, _, [] => m
  | m, a, b :: bs => Memory.writeBytes (m.write a b) (a + 1) bs

/-- `BUF[a .. a + n)`. -/
def Memory.readBytes (m : Memory) : Nat → Nat → List Byte
  | _, 0 => []
  | a, n + 1 => m.read a :: Memory.readBytes m (a + 1) n

/-- Every listed index is above `lo`, indices rise strictly, and no entry says what an unlisted index reads
as. -/
def Memory.wfAbove : Option Nat → Memory → Bool
  | _, [] => true
  | lo, (a, b) :: m =>
      (match lo with
        | none => true
        | some l => decide (l < a))
      && decide (b ≠ Memory.unlisted) && Memory.wfAbove (some a) m

/-- The canonical form. -/
def Memory.wf (m : Memory) : Bool := Memory.wfAbove none m

/-! ### The ring buffer (42_ringbuffer.md) -/

/-- Storing consecutive bytes from place `pos`, each at its index mod `C` (R184). -/
def Memory.storeRing (C : Nat) : Memory → Nat → List Byte → Memory
  | m, _, [] => m
  | m, pos, b :: bs => Memory.storeRing C (m.write (pos % C) b) (pos + 1) bs

/-- Reading `n` consecutive bytes from place `pos`, each at its index mod `C` (R187). -/
def Memory.loadRing (m : Memory) (C : Nat) : Nat → Nat → List Byte
  | _, 0 => []
  | pos, n + 1 => m.read (pos % C) :: Memory.loadRing m C (pos + 1) n

/-- `min(n, C - count)`: how many of `n` bytes are accepted (R184). -/
def RingBuffer.accepts (rb : RingBuffer) (n : Nat) : Nat := min n (rb.cap - rb.count)

/-- `RB_WRITE_ARRAY` (R184): the first `accepts` bytes are appended at the tail. -/
def RingBuffer.writeArray (rb : RingBuffer) (data : List Byte) : RingBuffer :=
  let k := rb.accepts data.length
  { rb with
    store := rb.store.storeRing rb.cap rb.tail (data.take k)
    tail := if k > 0 then (rb.tail + k) % rb.cap else rb.tail
    count := rb.count + k }

/-- `RB_WRITE` (R182) of a buffer that is not full; unchanged when full. -/
def RingBuffer.write (rb : RingBuffer) (b : Byte) : RingBuffer :=
  if rb.count = rb.cap then rb
  else
    { rb with
      store := rb.store.write rb.tail b
      tail := (rb.tail + 1) % rb.cap
      count := rb.count + 1 }

/-- `min(n, count)`: how many of `n` bytes can be read (R187). -/
def RingBuffer.holds (rb : RingBuffer) (n : Nat) : Nat := min n rb.count

/-- The bytes `RB_READ_ARRAY` of `n` returns, oldest first (R187). -/
def RingBuffer.front (rb : RingBuffer) (n : Nat) : List Byte :=
  rb.store.loadRing rb.cap rb.head (rb.holds n)

/-- The buffer after `RB_READ_ARRAY` of `n` (R187). -/
def RingBuffer.consume (rb : RingBuffer) (n : Nat) : RingBuffer :=
  let k := rb.holds n
  { rb with
    head := if k > 0 then (rb.head + k) % rb.cap else rb.head
    count := rb.count - k }

/-- The value `RB_READ` and `RB_PEEK` return: the byte at the head, 0x00 when empty (R185, R188). -/
def RingBuffer.headByte (rb : RingBuffer) : Byte := if rb.count = 0 then 0 else rb.store.read rb.head

/-- The buffer after `RB_READ` (R185). -/
def RingBuffer.read (rb : RingBuffer) : RingBuffer :=
  if rb.count = 0 then rb
  else { rb with head := (rb.head + 1) % rb.cap, count := rb.count - 1 }

/-- `RB_RESIZE` to `n` (R193): empty, and every storage byte unspecified (R28; as bytes nothing has written). -/
def RingBuffer.resize (n : Nat) : RingBuffer := ⟨n, 0, 0, 0, []⟩

/-! ### Responses (R110, R114), errors (R292) and diagnostics (R306) -/

/-- The number of a status code (R281). -/
def Status.code : Status → Byte
  | .ok => 0x00
  | .malformed => 0x01
  | .txFailed => 0x02
  | .ackTimeout => 0x03
  | .backpressure => 0x04
  | .duplicate => 0x05
  | .seqGap => 0x06
  | .dropped => 0x07
  | .buildOverflow => 0x08
  | .refused => 0x09
  | .illegalCmd => 0x0A
  | .noFrame => 0x0B

/-- `respond(status, values...)` (R17): the status byte and the result bytes go out on the command port. -/
def State.respond (s : State) (st : Status) (results : List Byte) : State :=
  { s with io := { s.io with cmdOut := s.io.cmdOut ++ [st.code :: results] } }

/-- `respond(OK, values...)` as the outcome of a step. -/
def answer (s : State) (results : List Byte) : Host.Outcome State Fault Refusal :=
  .next (s.respond .ok results)

/-- `raise E` (R17, R292), the block's one way of taking an error: "no register and no buffer is changed by
that step ... the response carries the status byte and no results; the command port is free for the next
command. No cause register, no saved position, no mode change, no vector." There is nothing to return from
(R293). -/
def raise (s : State) (e : Status) : Host.Outcome State Fault Refusal := .next (s.respond e [])

/-- `diag(code, info...)` (R17, R306). -/
def State.diag (s : State) (code : Status) (info : List Nat) : State :=
  { s with io := { s.io with diag := s.io.diag ++ [⟨code, info⟩] } }

/-! ### The radio call interface (R300, R303) and the timer agent (R296) -/

/-- The bytes `TXFRAME[0 .. TXFRAME_LEN)`. -/
def TxRegs.frameBytes (t : TxRegs) : List Byte := t.txFrame.readBytes 0 t.txFrameLen

/-- `call transmit(TXFRAME[0 .. TXFRAME_LEN))` (R300): the call is made, and on `ok` the radio agent adds the
attempt to `INFLIGHT`. The answer is `s.io.txAnswer`, an input of the step. -/
def State.transmit (s : State) : State :=
  { s with
    io := { s.io with txCalls := s.io.txCalls ++ [⟨s.tx.frameBytes, s.io.txAnswer⟩] }
    env := { s.env with
      inflight := if s.io.txAnswer then s.env.inflight ++ [s.tx.frameBytes] else s.env.inflight } }

/-- `call receiveNext()` (R252, R303): the oldest element of `INQ`, or none. -/
def State.nextInFrame (s : State) : Option InFrame := s.env.inq.head?

/-- The state after `call receiveNext()`: the frame returned has left `INQ`. -/
def State.pullFrame (s : State) : State :=
  { s with
    env := { s.env with inq := s.env.inq.tail }
    io := { s.io with rxCalls := s.io.rxCalls + 1 } }

/-- The radio agent reports one of its attempts (R39, R304): the attempt leaves `INFLIGHT`. Which one is not
in the event; it is a free value. -/
def State.reportAttempt (s : State) : State :=
  { s with
    env := { s.env with inflight := s.env.inflight.eraseIdx (Config.reportedAttempt s.free) }
    free := s.free + 1 }

/-- A frame reaches the radio agent's queue (R263). -/
def State.enqueue (s : State) (f : InFrame) : State :=
  { s with env := { s.env with inq := s.env.inq ++ [f] } }

/-- The acknowledgment timer is set for `ACK_WAIT + ACK_MARGIN` (R223, R296). -/
def State.setAckTimer (s : State) : State :=
  { s with
    tx := { s.tx with ackTimerArmed := true }
    env := { s.env with ackDuration := s.cfg.ackWait.toNat + Config.ackMargin } }

/-- The inter-attempt delay is set for `RETRY_DELAY` (R229, R296). -/
def State.setDelayTimer (s : State) : State :=
  { s with
    tx := { s.tx with delayArmed := true }
    env := { s.env with delayDuration := s.cfg.retryDelay.toNat } }

/-- The read timer is set for `timeout` (R265, R296). -/
def State.setReadTimer (s : State) (timeout : Word32) : State :=
  { s with
    rd := { s.rd with timerArmed := true }
    env := { s.env with readDuration := timeout.toNat } }

/-! ### Register updates used by more than one operation -/

/-- `ARQ_STATE <- a`. -/
def State.setArq (s : State) (a : ArqState) : State := { s with tx := { s.tx with arqState := a } }

/-- A notification takes effect: `ARQ_STATE <- a; ACK_TIMER_ARMED <- 0` (R224, R225, R227). -/
def State.endWait (s : State) (a : ArqState) : State :=
  { s with tx := { s.tx with arqState := a, ackTimerArmed := false } }

/-- `OUT_SEQ <- (OUT_SEQ + 1) mod 256` (R79, R231). -/
def State.advanceSeq (s : State) : State := { s with tx := { s.tx with outSeq := s.tx.outSeq + 1 } }

/-- The transmit ring buffer is replaced. -/
def State.setTxb (s : State) (rb : RingBuffer) : State := { s with tx := { s.tx with txb := rb } }

/-- The receive ring buffer is replaced. -/
def State.setRxb (s : State) (rb : RingBuffer) : State := { s with rx := { s.rx with rxb := rb } }

/-- The user ring buffer is replaced. -/
def State.setUb (s : State) (rb : RingBuffer) : State := { s with ub := rb }

/-- `APP_CMD <- c` (R34). -/
def State.setAppCmd (s : State) (c : AppCmd) : State := { s with appCmd := c }

/-- The latches between internal operations are replaced. -/
def State.setLatch (s : State) (l : Latches) : State := { s with latch := l }

/-! ### Session start and end values (R41, R211, R212) -/

/-- The transmit registers of the "T_BEGIN" and "reset" columns, with a `TXB` of capacity `c` and first
sequence number `q`. The bytes of `TXFRAME` are unspecified: as bytes nothing has written. -/
def TxRegs.fresh (c : Nat) (q : Byte) : TxRegs :=
  { TxRegs.reset with txb := .resize c, outSeq := q }

/-- The receive registers of the "T_BEGIN" and "reset" columns, with an `RXB` of capacity `c`. What R41 calls
unspecified takes the `n`-th free value. -/
def RxRegs.fresh (c : Nat) (n : Nat) : RxRegs where
  rxb := .resize c
  lastSeqValid := false
  lastSeq := Config.freeLastSeq n
  pendValid := false
  pendBuf := []
  pendLen := Config.freePendLen n % (Config.pendMax + 1)
  pendOff := Config.freePendOff n % (Config.pendMax + 1)
  rssi := Config.freeRssi n
  lqi := Config.freeLqi n
  channel := Config.freeChannel n
  metaValid := false

/-- The session registers of R41 put at a column's values: `LIVE`, the capacities of the two owned ring
buffers and the first sequence number are what the columns differ in. -/
def State.setSession (s : State) (live : Bool) (txCap rxCap : Nat) (q : Byte) : State :=
  { s with
    live := live
    appCmd := .none
    tx := .fresh txCap q
    rx := .fresh rxCap s.free
    rd := .reset
    latch := .clear
    free := s.free + 1 }

/-- A value for a mode register out of the legal 0, 2, 3 (R41, R320). -/
def legalMode (v : BitVec 2) : BitVec 2 := if v = 1 then 0 else v

/-- The configuration registers after the reset input was asserted: unspecified, the mode registers among the
legal values (R41, R320). -/
def CfgRegs.free (n : Nat) : CfgRegs where
  panId := (Config.freeCfg n 0).setWidth 16
  localAddrMode := legalMode ((Config.freeCfg n 1).setWidth 2)
  localAddrVal := Config.freeCfg n 2
  destAddrMode := legalMode ((Config.freeCfg n 3).setWidth 2)
  destAddrVal := Config.freeCfg n 4
  fcfTmpl := (Config.freeCfg n 5).setWidth 16
  ackWait := (Config.freeCfg n 6).setWidth 32
  retryCount := (Config.freeCfg n 7).setWidth 8
  retryDelay := (Config.freeCfg n 8).setWidth 32
  rxCap := (Config.freeCfg n 9).setWidth 16
  txCap := (Config.freeCfg n 10).setWidth 16

/-- The reset input is asserted (R320): every register takes the "reset" column of R41, what is unspecified
there a free value. Reset does not reach the environment (R322), and a command in progress gets no response
(R321). -/
def State.hardReset (s : State) : State :=
  { s.setSession false 0 0 0 with cfg := .free s.free, ub := .empty }

end Sys2Proof.Machine
end

