-- ==== Sys2Proof/Machine/Flags.lean ====
section
/-! DEFINITION. The block's one-bit status values that are derived from registers (10_state.md R36), and the
enabling conditions of its steps (50_sequencing_and_access.md R341). The block has no condition codes. -/

namespace Sys2Proof.Machine

/-- `rb.isFull`: count = C (R26, R191). -/
def RingBuffer.isFull (rb : RingBuffer) : Bool := decide (rb.count = rb.cap)

/-- `rb.isEmpty`: count = 0 (R26, R192). -/
def RingBuffer.isEmpty (rb : RingBuffer) : Bool := decide (rb.count = 0)

/-- `availableForWrite`: `C - count` (R190). -/
def RingBuffer.space (rb : RingBuffer) : Nat := rb.cap - rb.count

/-- `APP_BUSY`: `APP_CMD != None` (R34). -/
def State.appBusy (s : State) : Bool := decide (s.appCmd ≠ .none)

/-- `ackRequest` of the FCF template, `FCF_TMPL[5]`: the send is with confirmation (R218). -/
def State.ackRequested (s : State) : Bool := s.cfg.fcfTmpl.getLsbD 5

/-- `TXB.count >= MTU or TXB.count = TXB.C`: the bytes staged are to be sent (R214). -/
def State.drainDue (s : State) : Bool := s.tx.txb.isFull || decide (Config.mtu ≤ s.tx.txb.count)

/-- A transmit notification acts only when `LIVE = 1 and ARQ_STATE = Waiting` (R224, R225, R289). -/
def State.awaitsReport (s : State) : Bool := s.live && decide (s.tx.arqState = .waiting)

/-- `DRAIN` is enabled only from `T_WRITE` and `T_FLUSH`, with `TXB.count >= 1` (R217). -/
def State.drainEnabled (s : State) : Bool := s.latch.drainReq && decide (1 ≤ s.tx.txb.count)

/-- `SEND_NOCONF` is enabled only from the step that drained a chunk (R219). -/
def State.sendNoconfEnabled (s : State) : Bool := s.latch.chunk.isSome

/-- `SEND_CONF` is enabled only from the step that drained a chunk, "when `ARQ_STATE = Idle` and
`SEND_ACTIVE = 0`" (R220). -/
def State.sendConfEnabled (s : State) : Bool :=
  s.latch.chunk.isSome && decide (s.tx.arqState = .idle) && !s.tx.sendActive

/-- `ARQ_ISSUE`: `LIVE = 1 and SEND_ACTIVE = 1 and ARQ_STATE = Idle and DELAY_ARMED = 0` (R223). -/
def State.arqIssueEnabled (s : State) : Bool :=
  s.live && s.tx.sendActive && decide (s.tx.arqState = .idle) && !s.tx.delayArmed

/-- `ARQ_DECIDE`: `SEND_ACTIVE = 1 and ARQ_STATE in (Confirmed, Failed)` (R229). -/
def State.arqDecideEnabled (s : State) : Bool :=
  s.tx.sendActive && (decide (s.tx.arqState = .confirmed) || decide (s.tx.arqState = .failed))

/-- `SEQ_VALIDATE` is enabled only inside the receive step, on the frame it hands over (R254). -/
def State.seqValidateEnabled (s : State) : Bool := s.latch.rxFrame.isSome

end Sys2Proof.Machine
end

