-- ==== Sys2Proof/Machine/Operands.lean ====
section
/-! DEFINITION. Operand forms and result forms: FCF words and their fields, address modes and addresses, frames
as they travel on the command port, configuration values, and the response encodings of 30_encoding.md R114. -/

namespace Sys2Proof.Machine

/-! ### Bit fields and the FCF (R14, R95, R134, R135) -/

/-- `w[lo + n - 1 : lo]`, that is `(w div 2^lo) mod 2^n` (R14). -/
def field (w : Half) (lo n : Nat) : BitVec n := BitVec.ofNat n (w.toNat / 2 ^ lo)

/-- `FCF_UNPACK` (R134). -/
def unpackFcf (w : Half) : Fcf where
  frameType := field w 0 3
  securityEnabled := field w 3 1
  framePending := field w 4 1
  ackRequest := field w 5 1
  panIdCompression := field w 6 1
  reserved := field w 7 1
  sequenceNumberSuppression := field w 8 1
  informationElementsPresent := field w 9 1
  destAddrMode := field w 10 2
  frameVersion := field w 12 2
  srcAddrMode := field w 14 2

/-- `FCF_PACK` (R135; the formula of R95). -/
def packFcf (f : Fcf) : Half :=
  BitVec.ofNat 16 (f.frameType.toNat + 8 * f.securityEnabled.toNat + 16 * f.framePending.toNat
    + 32 * f.ackRequest.toNat + 64 * f.panIdCompression.toNat + 128 * f.reserved.toNat
    + 256 * f.sequenceNumberSuppression.toNat + 512 * f.informationElementsPresent.toNat
    + 1024 * f.destAddrMode.toNat + 4096 * f.frameVersion.toNat + 16384 * f.srcAddrMode.toNat)

/-- Every operand byte of `FCF_PACK` is below 2 to its field's width (R135). -/
def fcfInRange (f : FcfBytes) : Bool :=
  decide (f.frameType.toNat < 8) && decide (f.securityEnabled.toNat < 2) && decide (f.framePending.toNat < 2)
    && decide (f.ackRequest.toNat < 2) && decide (f.panIdCompression.toNat < 2) && decide (f.reserved.toNat < 2)
    && decide (f.sequenceNumberSuppression.toNat < 2) && decide (f.informationElementsPresent.toNat < 2)
    && decide (f.destAddrMode.toNat < 4) && decide (f.frameVersion.toNat < 4) && decide (f.srcAddrMode.toNat < 4)

/-- The field values that operand bytes in range hold (R135). -/
def fcfOfBytes (f : FcfBytes) : Fcf where
  frameType := f.frameType.setWidth 3
  securityEnabled := f.securityEnabled.setWidth 1
  framePending := f.framePending.setWidth 1
  ackRequest := f.ackRequest.setWidth 1
  panIdCompression := f.panIdCompression.setWidth 1
  reserved := f.reserved.setWidth 1
  sequenceNumberSuppression := f.sequenceNumberSuppression.setWidth 1
  informationElementsPresent := f.informationElementsPresent.setWidth 1
  destAddrMode := f.destAddrMode.setWidth 2
  frameVersion := f.frameVersion.setWidth 2
  srcAddrMode := f.srcAddrMode.setWidth 2

/-- The eleven field values as eleven bytes in the order of R95 (R134). -/
def Fcf.bytes (f : Fcf) : List Byte :=
  [f.frameType.setWidth 8, f.securityEnabled.setWidth 8, f.framePending.setWidth 8, f.ackRequest.setWidth 8,
    f.panIdCompression.setWidth 8, f.reserved.setWidth 8, f.sequenceNumberSuppression.setWidth 8,
    f.informationElementsPresent.setWidth 8, f.destAddrMode.setWidth 8, f.frameVersion.setWidth 8,
    f.srcAddrMode.setWidth 8]

/-! ### Address modes (R99, R130, R131) -/

/-- The one mapping of mode numbers: None 0, Reserved 1, Short 2, Extended 3 (R99). -/
def addrField (m : BitVec 2) : AddrField :=
  match m.toNat with
  | 0 => .none
  | 1 => .reserved
  | 2 => .short
  | _ => .extended

/-- `addrLen(m)` (R130). -/
def addrLen (m : BitVec 2) : Nat :=
  match addrField m with
  | .none => 0
  | .reserved => 0
  | .short => 2
  | .extended => 8

/-- `present(m)`: `addrLen(m) > 0` (R131). -/
def present (m : BitVec 2) : Bool := decide (0 < addrLen m)

/-- `modeOf(m)`: Reserved maps to None (R131). -/
def modeOf (m : BitVec 2) : AddrMode :=
  match addrField m with
  | .none => .none
  | .reserved => .none
  | .short => .short
  | .extended => .extended

/-- The Address with the leading `addrLen(m)` of some bytes (R113, R133, R216). -/
def addressOf (m : BitVec 2) (bytes : List Byte) : Address := ⟨modeOf m, bytes.take (addrLen m)⟩

/-- `destAddrMode` of an FCF word. -/
def destModeOf (w : Half) : BitVec 2 := field w 10 2

/-- `srcAddrMode` of an FCF word. -/
def srcModeOf (w : Half) : BitVec 2 := field w 14 2

/-- `sequenceNumberSuppression` of an FCF word. -/
def seqSuppressed (w : Half) : Bool := w.getLsbD 8

/-- `panIdCompression` of an FCF word. -/
def panCompressed (w : Half) : Bool := w.getLsbD 6

/-! ### Configuration registers (R37, R210) -/

/-- The width in bits of the configuration register of an index (R37). -/
def cfgWidth (idx : Nat) : Nat :=
  match idx with
  | 0 => 16
  | 1 => 2
  | 2 => 64
  | 3 => 2
  | 4 => 64
  | 5 => 16
  | 6 => 32
  | 7 => 8
  | 8 => 32
  | 9 => 16
  | 10 => 16
  | _ => 0

/-- `CFG[idx] <- val` (R210). -/
def CfgRegs.write (c : CfgRegs) (idx : Nat) (val : Word64) : CfgRegs :=
  match idx with
  | 0 => { c with panId := val.setWidth 16 }
  | 1 => { c with localAddrMode := val.setWidth 2 }
  | 2 => { c with localAddrVal := val }
  | 3 => { c with destAddrMode := val.setWidth 2 }
  | 4 => { c with destAddrVal := val }
  | 5 => { c with fcfTmpl := val.setWidth 16 }
  | 6 => { c with ackWait := val.setWidth 32 }
  | 7 => { c with retryCount := val.setWidth 8 }
  | 8 => { c with retryDelay := val.setWidth 32 }
  | 9 => { c with rxCap := val.setWidth 16 }
  | 10 => { c with txCap := val.setWidth 16 }
  | _ => c

/-- The refusals of R210: an index above 10, a value wider than the register, the Reserved mode. -/
def cfgRefused (idx : Nat) (val : Word64) : Bool :=
  decide (10 < idx) || decide (2 ^ cfgWidth idx ≤ val.toNat)
    || (decide (idx = 1 ∨ idx = 3) && decide (val = 1))

/-- The eight bytes of an address register, byte 0 first on the wire (R37): the value arrives as a
little-endian `u64` (R111). -/
def addrBytes (v : Word64) : List Byte := leBytes 8 v.toNat

/-! ### Results (R114) -/

/-- A boolean result: one byte 0 or 1. -/
def flagByte (b : Bool) : Byte := if b then 1 else 0

/-- A `u16` result. -/
def u16Bytes (n : Nat) : List Byte := leBytes 2 n

/-- An address field of format `CF` in a response: the address's bytes, filled up to eight with bytes no rule
gives a value. -/
def paddedAddr (a : Address) (pad : Nat → Byte) : List Byte :=
  a.bytes ++ (List.range (8 - a.bytes.length)).map fun i => pad (a.bytes.length + i)

/-- A Frame result: the layout of format `CF` without the `cap` field (R114). `n` is the number of the
response. -/
def frameResult (n : Nat) (f : Frame) : List Byte :=
  halfBytes f.fcf ++ [f.seq] ++ halfBytes f.destPan ++ halfBytes f.srcPan
    ++ paddedAddr f.dest (Config.addrPad n) ++ paddedAddr f.src (fun i => Config.addrPad n (8 + i))
    ++ [BitVec.ofNat 8 f.payload.length] ++ f.payload

/-- An Address result of `ADDR_MAKE`: mode:u8, then its 0, 2 or 8 bytes (R114). -/
def addrResult (mode : Byte) (a : Address) : List Byte := mode :: a.bytes

/-! ### Which commands act (R341, R181) -/

/-- A command is taken only when `APP_BUSY = 0` (R71, R115, R341); a busy port does not take it, and nothing
happens. -/
def whenFree (s : State) (k : Host.Outcome State Fault Refusal) : Host.Outcome State Fault Refusal :=
  if s.appBusy then .next s else k

/-- A `T_` command that needs a live session: `if LIVE = 0: raise E_REFUSED` (R115, R346). -/
def whenLive (s : State) (k : Host.Outcome State Fault Refusal) : Host.Outcome State Fault Refusal :=
  whenFree s (if s.live then k else raise s .refused)

/-- An `RB_` command (R181): an instance number of 3 or more is illegal, TXB and RXB are refused, UB is
performed. -/
def onUserRing (rb : Byte) (s : State) (k : Host.Outcome State Fault Refusal) :
    Host.Outcome State Fault Refusal :=
  whenFree s (if 3 ≤ rb.toNat then raise s .illegalCmd else if rb.toNat ≠ 2 then raise s .refused else k)

/-- A step that happens only where its enabling condition holds (R70, R341): where it does not hold the agent
whose turn it is does nothing. DESIGN CHOICE (notes/assumptions/7.md; for a timer event's message,
notes/assumptions/22.md). -/
def whenEnabled (c : Bool) (s : State) (k : Host.Outcome State Fault Refusal) :
    Host.Outcome State Fault Refusal :=
  if c then k else .next s

end Sys2Proof.Machine
end

