-- ==== Sys2Proof/Machine/Codec.lean ====
section
/-! DEFINITION. The frame codec of 41_codec.md as pure functions: `hdrLen`, `PARSE` and `BUILD`. -/

namespace Sys2Proof.Machine

/-- `hdrLen(w)`, the header length in bytes (R151). -/
def hdrLen (w : Half) : Nat :=
  2 + (if seqSuppressed w then 0 else 1)
    + (if present (destModeOf w) then 2 else 0) + addrLen (destModeOf w)
    + (if present (srcModeOf w) && !panCompressed w then 2 else 0) + addrLen (srcModeOf w)

/-! ### PARSE (R152)

The fields lie in `[1, L - 1)`. The cursor `pos` of R24 is how many bytes of that range have been taken; the
bytes not yet taken are carried along, and `need(k)` asks whether `k` of them are left. -/

/-- A `u8` at the cursor. -/
def readU8 : List Byte → Option (Byte × List Byte)
  | b :: bs => some (b, bs)
  | [] => none

/-- A little-endian `u16` at the cursor. -/
def readU16 : List Byte → Option (Half × List Byte)
  | b0 :: b1 :: bs => some (le16 b0 b1, bs)
  | _ => none

/-- Step 2: the sequence number, 0 when suppressed (R155). -/
def readSeq (w : Half) (bs : List Byte) : Option (Byte × List Byte) :=
  if seqSuppressed w then some (0, bs) else readU8 bs

/-- Step 3: the destination PAN ID, 0 when no destination address is present (R155). -/
def readDestPan (w : Half) (bs : List Byte) : Option (Half × List Byte) :=
  if present (destModeOf w) then readU16 bs else some (0, bs)

/-- Steps 4 and 6: an address of mode field `m`, its bytes in index order (R62, R156). -/
def readAddr (m : BitVec 2) (bs : List Byte) : Option (Address × List Byte) :=
  match splitBytes (addrLen m) bs with
  | some (field, rest) => some (⟨modeOf m, field⟩, rest)
  | none => none

/-- Step 5: the source PAN ID: the destination's when compressed, 0 when no source address is present (R155,
R157). -/
def readSrcPan (w : Half) (destPan : Half) (bs : List Byte) : Option (Half × List Byte) :=
  if present (srcModeOf w) then
    if panCompressed w then some (destPan, bs) else readU16 bs
  else some (0, bs)

/-- Steps 1 to 7 on the bytes `raw[1 .. L - 1)`. -/
def parseFields (bs : List Byte) : Option Frame :=
  (readU16 bs).bind fun (w, bs) =>
  (readSeq w bs).bind fun (seq, bs) =>
  (readDestPan w bs).bind fun (destPan, bs) =>
  (readAddr (destModeOf w) bs).bind fun (dest, bs) =>
  (readSrcPan w destPan bs).bind fun (srcPan, bs) =>
  (readAddr (srcModeOf w) bs).bind fun (src, bs) =>
  some { fcf := w, seq := seq, destPan := destPan, srcPan := srcPan, dest := dest, src := src, payload := bs }

/-- `PARSE(raw)` (R152, R153): `none` is `E_MALFORMED`. Bytes beyond index `L - 1` are ignored, and the
terminator is not read (R154). -/
def parse (raw : List Byte) : Option Frame :=
  match raw with
  | [] => none
  | len :: fields =>
      if len.toNat = 0 ∨ raw.length < len.toNat then none
      else parseFields (fields.take (len.toNat - 2))

/-! ### BUILD (R161) -/

/-- The address modes agree with the FCF (R160). -/
def Frame.modesAgree (f : Frame) : Bool :=
  decide (f.dest.mode = modeOf (destModeOf f.fcf)) && decide (f.src.mode = modeOf (srcModeOf f.fcf))

/-- The header bytes: fields in the order of R90, each present as R92 says. -/
def headerBytes (f : Frame) : List Byte :=
  halfBytes f.fcf
    ++ (if seqSuppressed f.fcf then [] else [f.seq])
    ++ (if present (destModeOf f.fcf) then halfBytes f.destPan else [])
    ++ f.dest.bytes
    ++ (if present (srcModeOf f.fcf) && !panCompressed f.fcf then halfBytes f.srcPan else [])
    ++ f.src.bytes

/-- `total`: `2 + hdrLen(w) + N` (R161). -/
def frameTotal (f : Frame) : Nat := 2 + hdrLen f.fcf + f.payload.length

/-- The wire frame: length byte, header, payload, terminator 0x00 (R90, R161). -/
def wireBytes (f : Frame) : List Byte :=
  BitVec.ofNat 8 (frameTotal f) :: (headerBytes f ++ f.payload ++ [0x00])

/-- What BUILD gives: bytes, or an error (R161). -/
inductive Built
  | ok (out : List Byte)
  | error (e : Status)
deriving DecidableEq, Repr

/-- `BUILD(f, cap)` (R161): an address that disagrees with its FCF mode is refused before the size is looked
at (R290); a total above 255 or above `cap` writes nothing (R163). -/
def build (f : Frame) (cap : Nat) : Built :=
  if !f.modesAgree then .error .refused
  else if 255 < frameTotal f ∨ cap < frameTotal f then .error .buildOverflow
  else .ok (wireBytes f)

end Sys2Proof.Machine
end

