-- ==== Sys2Proof/Machine/CodecOps.lean ====
section
/-! DEFINITION. The meanings of `PARSE` and `BUILD` as commands (41_codec.md). Both are pure: no block state
changes. -/

namespace Sys2Proof.Machine

/-- `PARSE` raw (R152): the Frame, or `E_MALFORMED` with no results; the command port emits no diagnostic. -/
def execParse (raw : List Byte) (s : State) : Host.Outcome State Fault Refusal :=
  whenFree s
    (match parse raw with
      | some f => answer s (frameResult s.io.cmdOut.length f)
      | none => raise s .malformed)

/-- The frame the operands of format `CF` stand for: each address's mode is taken from the `fcf` operand
(R113, R160). -/
def operandFrame (fcf : Half) (seq : Byte) (destPan srcPan : Half) (destAddr srcAddr payload : List Byte) :
    Frame where
  fcf := fcf
  seq := seq
  destPan := destPan
  srcPan := srcPan
  dest := addressOf (destModeOf fcf) destAddr
  src := addressOf (srcModeOf fcf) srcAddr
  payload := payload

/-- `BUILD` frame, cap (R161): the wire frame, or an error with no results. -/
def execBuild (cap fcf : Half) (seq : Byte) (destPan srcPan : Half) (destAddr srcAddr payload : List Byte)
    (s : State) : Host.Outcome State Fault Refusal :=
  whenFree s
    (match build (operandFrame fcf seq destPan srcPan destAddr srcAddr payload) cap.toNat with
      | .ok out => answer s (countedBytes out)
      | .error e => raise s e)

end Sys2Proof.Machine
end

