-- ==== Sys2Proof/Machine/Transport.lean ====
section
/-! DEFINITION. The internal operations of the transport that its commands, events and steps share:
`MAKE_FRAME`, `DRAIN`, the two sends and the completion of a send (43_transport_tx.md), and the receive step
with sequence validation, delivery and backpressure (44_transport_rx.md). -/

namespace Sys2Proof.Machine

/-! ### Sending (43_transport_tx.md) -/

/-- The FCF word of the transport's frames: the template with the mode fields filled from the address
registers (R216). -/
def txFcf (c : CfgRegs) : Half :=
  BitVec.ofNat 16 (c.fcfTmpl.toNat % 1024 + 1024 * c.destAddrMode.toNat
    + 4096 * (field c.fcfTmpl 12 2).toNat + 16384 * c.localAddrMode.toNat)

/-- The frame of `MAKE_FRAME(chunk)` (R216), with the pre-send value of `OUT_SEQ`. -/
def State.txFrameOf (s : State) (chunk : List Byte) : Frame where
  fcf := txFcf s.cfg
  seq := s.tx.outSeq
  destPan := s.cfg.panId
  srcPan := s.cfg.panId
  dest := addressOf s.cfg.destAddrMode (addrBytes s.cfg.destAddrVal)
  src := addressOf s.cfg.localAddrMode (addrBytes s.cfg.localAddrVal)
  payload := chunk

/-- The built bytes stand in `TXFRAME[0 .. total)` (R216). -/
def State.loadFrame (s : State) (out : List Byte) : State :=
  { s with tx := { s.tx with txFrame := s.tx.txFrame.writeBytes 0 out, txFrameLen := out.length } }

/-- `MAKE_FRAME(chunk)` (R216); `none` when BUILD does not accept the frame. -/
def State.makeFrame (s : State) (chunk : List Byte) : Option State :=
  match build (s.txFrameOf chunk) Config.frameMax with
  | .ok out => some (s.loadFrame out)
  | .error _ => none

/-- A `T_WRITE` or `T_FLUSH` step asks for `DRAIN`. -/
def State.requestDrain (s : State) : State := s.setLatch { s.latch with drainReq := true }

/-- `DRAIN` (R217): the oldest `min(TXB.count, MTU)` bytes leave TXB and become the chunk. -/
def State.drainTxb (s : State) : State :=
  (s.setTxb (s.tx.txb.consume (min s.tx.txb.count Config.mtu))).setLatch
    { s.latch with
      drainReq := false
      chunk := some (s.tx.txb.front (min s.tx.txb.count Config.mtu)) }

/-- The chunk the send works on, taken from the latch. -/
def State.takeChunk (s : State) : State := s.setLatch { s.latch with chunk := none }

/-- The chunk in the latch; nothing is there outside a `T_WRITE` or `T_FLUSH` step. -/
def State.theChunk (s : State) : List Byte := s.latch.chunk.getD []

/-- What `SEND_NOCONF` does once the frame is built (R219). -/
def State.sendOnce (s : State) : State :=
  if s.io.txAnswer then s.transmit.advanceSeq
  else s.transmit.diag .txFailed [s.tx.outSeq.toNat]

/-- `SEND_NOCONF` chunk (R219). -/
def State.startSendNoconf (s : State) : Host.Outcome State Fault Refusal :=
  match s.makeFrame s.theChunk with
  | some s' => .next s'.takeChunk.sendOnce
  | none => .fault .frameOverflow

/-- `RETRIES_LEFT <- RETRY_COUNT; SEND_ACTIVE <- 1` (R220). -/
def State.armSend (s : State) : State :=
  { s with tx := { s.tx with retriesLeft := s.cfg.retryCount.toNat, sendActive := true } }

/-- `SEND_CONF` chunk (R220). -/
def State.startSendConf (s : State) : Host.Outcome State Fault Refusal :=
  match s.makeFrame s.theChunk with
  | some s' => .next s'.takeChunk.armSend
  | none => .fault .frameOverflow

/-- What follows where a step of this one succeeds. -/
def thenNext (o : Host.Outcome State Fault Refusal) (f : State → State) : Host.Outcome State Fault Refusal :=
  match o with
  | .next s => .next (f s)
  | .fault e => .fault e
  | .refused e => .refused e

/-- The bytes staged are drained and handed to the send the FCF template selects (R214, R215, R218). A
confirmed send holds the command port as command `c`, whose response `ARQ_DECIDE` sends; an unconfirmed one
answers at once with `results`. -/
def State.drainAndSend (s : State) (c : AppCmd) (results : List Byte) : Host.Outcome State Fault Refusal :=
  if s.ackRequested then
    thenNext s.requestDrain.drainTxb.startSendConf fun t => t.setAppCmd c
  else
    thenNext s.requestDrain.drainTxb.startSendNoconf fun t => t.respond .ok results

/-- `complete()` of `ARQ_DECIDE` (R229): the response to the `T_WRITE` or `T_FLUSH` that began the send. -/
def State.completeSend (s : State) : State :=
  (if s.appCmd = .write then s.respond .ok [1] else s.respond .ok []).setAppCmd .none

/-- `ARQ_STATE <- Idle; SEND_ACTIVE <- 0` (R229). -/
def State.endSend (s : State) : State :=
  { s with tx := { s.tx with arqState := .idle, sendActive := false } }

/-- `RETRIES_LEFT <- n`. -/
def State.setRetries (s : State) (n : Nat) : State := { s with tx := { s.tx with retriesLeft := n } }

/-! ### Receiving (44_transport_rx.md) -/

/-- What the receive step answers: the state after it, a status and whether it made progress (R251). -/
structure Received where
  state : State
  status : Status
  progress : Bool
deriving DecidableEq, Repr

/-- The metadata registers take the frame's metadata (R260). -/
def State.latchMeta (s : State) (f : InFrame) : State :=
  { s with rx := { s.rx with rssi := f.rssi, lqi := f.lqi, channel := f.channel, metaValid := true } }

/-- A parsed frame is handed to `SEQ_VALIDATE`. -/
def State.offerFrame (s : State) (f : Frame) : State := s.setLatch { s.latch with rxFrame := some f }

/-- What the frame's number is against the last accepted one: a duplicate exactly when a number was accepted
before, the frame carries one, and they are equal (R254 to R257). -/
def seqVerdict (rx : RxRegs) (f : Frame) : Verdict :=
  if !seqSuppressed f.fcf && rx.lastSeqValid && decide (f.seq = rx.lastSeq) then .duplicate else .accept

/-- The diagnostics of R254: a duplicate is noted, and a number that is neither the last accepted one nor its
successor. -/
def seqDiags (rx : RxRegs) (f : Frame) : List Diag :=
  if seqSuppressed f.fcf || !rx.lastSeqValid then []
  else if f.seq = rx.lastSeq then [⟨.duplicate, [f.seq.toNat]⟩]
  else if f.seq = rx.lastSeq + 1 then []
  else [⟨.seqGap, [rx.lastSeq.toNat, f.seq.toNat]⟩]

/-- The registers `SEQ_VALIDATE` writes (R254): an accepted number becomes the last accepted one; a frame
without a number touches nothing. -/
def seqRecord (rx : RxRegs) (f : Frame) : RxRegs :=
  if seqSuppressed f.fcf then rx else { rx with lastSeqValid := true, lastSeq := f.seq }

/-- `SEQ_VALIDATE` f (R254). -/
def State.validateSeq (s : State) (f : Frame) : State :=
  { s with
    rx := seqRecord s.rx f
    io := { s.io with diag := s.io.diag ++ seqDiags s.rx f }
    latch := { s.latch with rxFrame := none, verdict := some (seqVerdict s.rx f) } }

/-- The receive step takes the verdict. -/
def State.takeVerdict (s : State) : State := s.setLatch { s.latch with verdict := none }

/-- `PEND_BUF[0 .. N) <- payload; PEND_LEN <- N; PEND_OFF <- 0; PEND_VALID <- 1` (R258). -/
def State.holdPending (s : State) (payload : List Byte) : State :=
  { s with
    rx := { s.rx with
      pendBuf := s.rx.pendBuf.writeBytes 0 payload
      pendLen := payload.length
      pendOff := 0
      pendValid := true } }

/-- `DELIVER(payload)` (R258). -/
def State.deliver (s : State) (payload : List Byte) : Received :=
  if payload.length = 0 then ⟨s, .ok, true⟩
  else if payload.length ≤ s.rx.rxb.space then ⟨s.setRxb (s.rx.rxb.writeArray payload), .ok, true⟩
  else
    ⟨(s.holdPending payload).diag .backpressure [payload.length, s.rx.rxb.space], .backpressure, false⟩

/-- The bytes `PEND_BUF[PEND_OFF .. PEND_OFF + k)`. -/
def RxRegs.pendBytes (r : RxRegs) (k : Nat) : List Byte := r.pendBuf.readBytes r.pendOff k

/-- How many pending bytes fit now: `min(RXB.C - RXB.count, PEND_LEN - PEND_OFF)` (R259). -/
def RxRegs.pendFits (r : RxRegs) : Nat := min r.rxb.space (r.pendLen - r.pendOff)

/-- `DRAIN_PENDING()` (R259). -/
def State.drainPending (s : State) : Received :=
  let k := s.rx.pendFits
  let rx : RxRegs := { s.rx with
    rxb := s.rx.rxb.writeArray (s.rx.pendBytes k)
    pendOff := s.rx.pendOff + k }
  if rx.pendOff = rx.pendLen then ⟨{ s with rx := { rx with pendValid := false } }, .ok, true⟩
  else ⟨{ s with rx := rx }, .backpressure, decide (0 < k)⟩

/-- A frame that parsed is validated, then delivered or dropped as a duplicate (R251). -/
def State.acceptFrame (s : State) (f : Frame) : Received :=
  let t := (s.offerFrame f).validateSeq f
  if t.latch.verdict = some .duplicate then ⟨t.takeVerdict, .duplicate, false⟩
  else t.takeVerdict.deliver f.payload

/-- A frame that was pulled is parsed: malformed it is discarded with a diagnostic (R253), else its metadata
are latched (R260) and it is validated. -/
def State.handleFrame (s : State) (f : InFrame) : Received :=
  match parse f.raw with
  | none => ⟨s.diag .malformed [], .malformed, false⟩
  | some p => (s.latchMeta f).acceptFrame p

/-- `RECEIVE_STEP()` (R251). -/
def State.receiveStep (s : State) : Received :=
  if s.rx.pendValid then s.drainPending
  else
    match s.nextInFrame with
    | none => ⟨s.pullFrame, .noFrame, false⟩
    | some f => s.pullFrame.handleFrame f

/-! ### Reading (44_transport_rx.md) -/

/-- `RB_READ_ARRAY(RXB, RD_WANT - RD_GOT)`, the bytes going to `RD_DATA` (R266). -/
def State.collect (s : State) : State :=
  let n := s.rd.want - s.rd.got
  { s.setRxb (s.rx.rxb.consume n) with
    rd := { s.rd with data := s.rd.data ++ s.rx.rxb.front n, got := s.rd.got + s.rx.rxb.holds n } }

/-- `finish()` of `RD_STEP` (R266): the read ends and its deferred response is sent. -/
def State.finishRead (s : State) : State :=
  ({ s with
    rd := { s.rd with active := false, timerArmed := false, expired := false }
    appCmd := .none }).respond .ok (countedBytes s.rd.data)

/-- `RD_WANT <- n; READ_EXPIRED <- 0`, and what RXB holds is taken (R265). -/
def State.beginRead (s : State) (n : Nat) : State :=
  { s.setRxb (s.rx.rxb.consume n) with
    rd := { s.rd with want := n, expired := false, data := s.rx.rxb.front n, got := s.rx.rxb.holds n } }

/-- The read cannot complete at once: `RD_ACTIVE <- 1; APP_CMD <- Read; READ_TIMER_ARMED <- 1` (R265). -/
def State.waitForBytes (s : State) (timeout : Word32) : State :=
  ({ s with rd := { s.rd with active := true }, appCmd := .read }).setReadTimer timeout

/-- The first step of `T_READ_BYTES` n, timeout (R265), which `T_READ` is with n = 1 (R264). -/
def State.startRead (s : State) (n : Nat) (timeout : Word32) : State :=
  if (s.beginRead n).rd.got = n then (s.beginRead n).respond .ok (countedBytes (s.beginRead n).rd.data)
  else (s.beginRead n).waitForBytes timeout

end Sys2Proof.Machine
end

