-- ==== Sys2Proof/Machine/ReceiveOps.lean ====
section
/-! DEFINITION. The meanings of the receive side (44_transport_rx.md): the receive step, sequence validation,
the read path, and the events of the inbound queue and the read timer. -/

namespace Sys2Proof.Machine

/-- `T_RECEIVE` (R251): the receive step's status and its progress byte. -/
def execTReceive (s : State) : Host.Outcome State Fault Refusal :=
  whenLive s (.next (s.receiveStep.state.respond s.receiveStep.status [flagByte s.receiveStep.progress]))

/-- `T_READ` (R264): `T_READ_BYTES 1, READ_TIMEOUT`. -/
def execTRead (s : State) : Host.Outcome State Fault Refusal :=
  whenLive s (.next (s.startRead 1 Config.readTimeout))

/-- `T_READ_BYTES` n, timeout (R265). -/
def execTReadBytes (n : Half) (timeout : Word32) (s : State) : Host.Outcome State Fault Refusal :=
  whenLive s (.next (s.startRead n.toNat timeout))

/-- `T_AVAILABLE` (R268). -/
def execTAvailable (s : State) : Host.Outcome State Fault Refusal :=
  whenLive s (answer s (u16Bytes s.rx.rxb.count))

/-- `T_META` (R269): zeros while no frame has parsed. -/
def execTMeta (s : State) : Host.Outcome State Fault Refusal :=
  whenLive s (answer s (if s.rx.metaValid then [1, s.rx.rssi, s.rx.lqi, s.rx.channel] else [0, 0, 0, 0]))

/-- `EV_READ_TIMEOUT` (R267), enabled only when `READ_TIMER_ARMED = 1`. -/
def execEvReadTimeout (s : State) : Host.Outcome State Fault Refusal :=
  whenEnabled s.rd.timerArmed s (.next { s with rd := { s.rd with expired := true, timerArmed := false } })

/-- `EV_RX_ENQUEUE` raw, rssi, lqi, channel (R263). -/
def execEvRxEnqueue (raw : List Byte) (rssi lqi channel : Byte) (s : State) :
    Host.Outcome State Fault Refusal :=
  .next (s.enqueue ⟨raw, rssi, lqi, channel⟩)

/-- `SEQ_VALIDATE` f (R254) as an internal operation of its own: the verdict goes to the latch the receive
step reads. -/
def execSeqValidate (s : State) : Host.Outcome State Fault Refusal :=
  match s.latch.rxFrame with
  | some f => .next (s.validateSeq f)
  | none => .next s

/-- `RD_STEP` (R266), enabled when `RD_ACTIVE = 1`: one turn of the read loop. -/
def execRdStep (s : State) : Host.Outcome State Fault Refusal :=
  whenEnabled s.rd.active s
    (.next (if s.rd.expired then s.finishRead
      else if s.receiveStep.state.collect.rd.got = s.receiveStep.state.collect.rd.want then
        s.receiveStep.state.collect.finishRead
      else s.receiveStep.state.collect))

end Sys2Proof.Machine
end

