-- ==== Sys2Proof/Machine/RingOps.lean ====
section
/-! DEFINITION. The meanings of the ring buffer commands (42_ringbuffer.md), performed on `UB` only (R181). -/

namespace Sys2Proof.Machine

/-- `RB_WRITE` rb, b (R182). -/
def execRbWrite (rb b : Byte) (s : State) : Host.Outcome State Fault Refusal :=
  onUserRing rb s (answer (s.setUb (s.ub.write b)) [flagByte (!s.ub.isFull)])

/-- `RB_WRITE_ARRAY` rb, data (R184). -/
def execRbWriteArray (rb : Byte) (data : List Byte) (s : State) : Host.Outcome State Fault Refusal :=
  onUserRing rb s (answer (s.setUb (s.ub.writeArray data)) (u16Bytes (s.ub.accepts data.length)))

/-- `RB_READ` rb (R185). -/
def execRbRead (rb : Byte) (s : State) : Host.Outcome State Fault Refusal :=
  onUserRing rb s (answer (s.setUb s.ub.read) [flagByte (!s.ub.isEmpty), s.ub.headByte])

/-- `RB_READ_ARRAY` rb, n (R187). -/
def execRbReadArray (rb : Byte) (n : Half) (s : State) : Host.Outcome State Fault Refusal :=
  onUserRing rb s (answer (s.setUb (s.ub.consume n.toNat)) (countedBytes (s.ub.front n.toNat)))

/-- `RB_PEEK` rb (R188). -/
def execRbPeek (rb : Byte) (s : State) : Host.Outcome State Fault Refusal :=
  onUserRing rb s (answer s [flagByte (!s.ub.isEmpty), s.ub.headByte])

/-- `RB_AVAILABLE` rb (R189). -/
def execRbAvailable (rb : Byte) (s : State) : Host.Outcome State Fault Refusal :=
  onUserRing rb s (answer s (u16Bytes s.ub.count))

/-- `RB_AVAILABLE_FOR_WRITE` rb (R190). -/
def execRbAvailableForWrite (rb : Byte) (s : State) : Host.Outcome State Fault Refusal :=
  onUserRing rb s (answer s (u16Bytes s.ub.space))

/-- `RB_IS_FULL` rb (R191). -/
def execRbIsFull (rb : Byte) (s : State) : Host.Outcome State Fault Refusal :=
  onUserRing rb s (answer s [flagByte s.ub.isFull])

/-- `RB_IS_EMPTY` rb (R192). -/
def execRbIsEmpty (rb : Byte) (s : State) : Host.Outcome State Fault Refusal :=
  onUserRing rb s (answer s [flagByte s.ub.isEmpty])

/-- `RB_RESIZE` rb, n (R193). -/
def execRbResize (rb : Byte) (n : Half) (s : State) : Host.Outcome State Fault Refusal :=
  onUserRing rb s
    (if Config.rbCapMax < n.toNat then raise s .refused else answer (s.setUb (.resize n.toNat)) [])

end Sys2Proof.Machine
end

