-- ==== Sys2Proof/Machine/SessionOps.lean ====
section
/-! DEFINITION. The meanings of the operations that manage the block (43_transport_tx.md R210 to R212, R345):
`CFG_WRITE`, `T_BEGIN` and `T_END`. -/

namespace Sys2Proof.Machine

/-- `CFG_WRITE` idx, val (R210): refused while a session is live, and for a value outside its legal set. -/
def execCfgWrite (idx : Byte) (val : Word64) (s : State) : Host.Outcome State Fault Refusal :=
  whenFree s
    (if s.live then raise s .refused
      else if cfgRefused idx.toNat val then raise s .refused
      else answer { s with cfg := s.cfg.write idx.toNat val } [])

/-- `T_BEGIN` (R211): the "T_BEGIN" column of R41. -/
def execTBegin (s : State) : Host.Outcome State Fault Refusal :=
  whenFree s
    (if s.live then raise s .refused
      else answer (s.setSession true s.cfg.txCap.toNat s.cfg.rxCap.toNat Config.seqInit) [])

/-- `T_END` (R212): the "reset" column of R41 for the session registers and both owned ring buffers. -/
def execTEnd (s : State) : Host.Outcome State Fault Refusal :=
  whenLive s (answer (s.setSession false 0 0 0) [])

end Sys2Proof.Machine
end

