-- ==== Sys2Proof/Machine/TransmitOps.lean ====
section
/-! DEFINITION. The meanings of the transmit side (43_transport_tx.md): the write path, the stop-and-wait
engine's internal steps, and the events that report on an attempt. -/

namespace Sys2Proof.Machine

/-- `T_WRITE` b (R214). -/
def execTWrite (b : Byte) (s : State) : Host.Outcome State Fault Refusal :=
  whenLive s
    (if s.tx.txb.isFull then answer s [0]
      else if (s.setTxb (s.tx.txb.write b)).drainDue then
        (s.setTxb (s.tx.txb.write b)).drainAndSend .write [1]
      else answer (s.setTxb (s.tx.txb.write b)) [1])

/-- `T_FLUSH` (R215). -/
def execTFlush (s : State) : Host.Outcome State Fault Refusal :=
  whenLive s (if s.tx.txb.count = 0 then answer s [] else s.drainAndSend .flush [])

/-- `EV_TX_DONE` (R224). Beside its effect on the block, the attempt it reports leaves `INFLIGHT`. -/
def execEvTxDone (s : State) : Host.Outcome State Fault Refusal :=
  .next (if s.awaitsReport then s.reportAttempt.endWait .confirmed else s.reportAttempt)

/-- `EV_TX_FAILED` errorCode (R225). Beside its effect on the block, the attempt it reports leaves
`INFLIGHT`. -/
def execEvTxFailed (errorCode : Word32) (s : State) : Host.Outcome State Fault Refusal :=
  .next (if s.awaitsReport then (s.reportAttempt.endWait .failed).diag .txFailed [errorCode.toNat]
    else s.reportAttempt)

/-- `EV_ACK_TIMEOUT` (R227), enabled only when `ACK_TIMER_ARMED = 1`. -/
def execEvAckTimeout (s : State) : Host.Outcome State Fault Refusal :=
  whenEnabled s.tx.ackTimerArmed s (.next ((s.endWait .failed).diag .ackTimeout [s.tx.outSeq.toNat]))

/-- `EV_RETRY_DELAY_DONE` (R228), enabled only when `DELAY_ARMED = 1`. -/
def execEvRetryDelayDone (s : State) : Host.Outcome State Fault Refusal :=
  whenEnabled s.tx.delayArmed s (.next { s with tx := { s.tx with delayArmed := false } })

/-- `DRAIN` (R217) as an internal operation of its own: the chunk goes to the latch of the send that
follows. -/
def execDrain (s : State) : Host.Outcome State Fault Refusal :=
  whenEnabled s.drainEnabled s (.next s.drainTxb)

/-- `SEND_NOCONF` chunk (R219). -/
def execSendNoconf (s : State) : Host.Outcome State Fault Refusal :=
  whenEnabled s.sendNoconfEnabled s s.startSendNoconf

/-- `SEND_CONF` chunk (R220). -/
def execSendConf (s : State) : Host.Outcome State Fault Refusal :=
  whenEnabled s.sendConfEnabled s s.startSendConf

/-- `ARQ_ISSUE` (R223): one transmit attempt. -/
def execArqIssue (s : State) : Host.Outcome State Fault Refusal :=
  whenEnabled s.arqIssueEnabled s
    (.next (if s.io.txAnswer then (s.transmit.setArq .waiting).setAckTimer
      else (s.transmit.setArq .failed).diag .txFailed [s.tx.outSeq.toNat]))

/-- The outcome of a send that was confirmed (R229). -/
def State.confirmSend (s : State) : State := s.advanceSeq.endSend.completeSend

/-- A failed attempt: the budget is decremented with saturation; exhausted, the number advances anyway, the
frame is dropped and the command completes; else a retry is due after the delay (R229). -/
def State.failAttempt (s : State) : State :=
  let t := s.setRetries (s.tx.retriesLeft - 1)
  if s.tx.retriesLeft - 1 = 0 then (t.advanceSeq.endSend.diag .dropped [s.tx.outSeq.toNat]).completeSend
  else (t.setArq .idle).setDelayTimer

/-- `ARQ_DECIDE` (R229): the retry decision. -/
def execArqDecide (s : State) : Host.Outcome State Fault Refusal :=
  whenEnabled s.arqDecideEnabled s
    (.next (if s.tx.arqState = .confirmed then s.confirmSend else s.failAttempt))

end Sys2Proof.Machine
end

