-- ==== Sys2Proof/Machine/ValueOps.lean ====
section
/-! DEFINITION. The meanings of the value-type operations (40_value_types.md) and of the table's FCF layout
row. They read and write no block state (R346). -/

namespace Sys2Proof.Machine

/-- `ADDR_LEN` m (R132); an operand byte above 3 is illegal (R115). -/
def execAddrLen (b : Byte) (s : State) : Host.Outcome State Fault Refusal :=
  whenFree s (if 3 < b.toNat then raise s .illegalCmd
    else answer s [BitVec.ofNat 8 (addrLen (b.setWidth 2))])

/-- `ADDR_MAKE` mode, b[0..7] (R133). -/
def execAddrMake (mode : Byte) (bytes : List Byte) (s : State) : Host.Outcome State Fault Refusal :=
  whenFree s (if 3 < mode.toNat then raise s .illegalCmd
    else if mode = 1 then raise s .refused
    else answer s (addrResult mode (addressOf (mode.setWidth 2) bytes)))

/-- `FCF_UNPACK` w (R134). -/
def execFcfUnpack (w : Half) (s : State) : Host.Outcome State Fault Refusal :=
  whenFree s (answer s (unpackFcf w).bytes)

/-- `FCF_PACK` fields (R135). -/
def execFcfPack (f : FcfBytes) (s : State) : Host.Outcome State Fault Refusal :=
  whenFree s (if fcfInRange f then answer s (halfBytes (packFcf (fcfOfBytes f))) else raise s .illegalCmd)

/-- `FCF_WORD` (R95): the layout of the FCF on the wire, "not an operation": the table gives it no agent, no
port and no effect. -/
def execFcfWord (_w : Half) (_s : State) : Host.Outcome State Fault Refusal := .refused .notAnOperation

end Sys2Proof.Machine
end

