-- ==== Sys2Proof/Machine/Dispatch.lean ====
section
/-! DEFINITION. The meaning of every operation: one arm per constructor of `Instr`, in the order of
spec/opcode_table.json. -/

namespace Sys2Proof.Machine

/-- The meaning of an operation. -/
def exec (i : Instr) (s : State) : Host.Outcome State Fault Refusal :=
  match i with
  | .addrLen b => Sys2Proof.Machine.execAddrLen b s
  | .addrMake mode bytes => Sys2Proof.Machine.execAddrMake mode bytes s
  | .fcfUnpack w => Sys2Proof.Machine.execFcfUnpack w s
  | .fcfPack f => Sys2Proof.Machine.execFcfPack f s
  | .parse raw => Sys2Proof.Machine.execParse raw s
  | .build cap fcf seq destPan srcPan destAddr srcAddr payload => Sys2Proof.Machine.execBuild cap fcf seq destPan srcPan destAddr srcAddr payload s
  | .rbWrite rb b => Sys2Proof.Machine.execRbWrite rb b s
  | .rbWriteArray rb data => Sys2Proof.Machine.execRbWriteArray rb data s
  | .rbRead rb => Sys2Proof.Machine.execRbRead rb s
  | .rbReadArray rb n => Sys2Proof.Machine.execRbReadArray rb n s
  | .rbPeek rb => Sys2Proof.Machine.execRbPeek rb s
  | .rbAvailable rb => Sys2Proof.Machine.execRbAvailable rb s
  | .rbAvailableForWrite rb => Sys2Proof.Machine.execRbAvailableForWrite rb s
  | .rbIsFull rb => Sys2Proof.Machine.execRbIsFull rb s
  | .rbIsEmpty rb => Sys2Proof.Machine.execRbIsEmpty rb s
  | .rbResize rb n => Sys2Proof.Machine.execRbResize rb n s
  | .cfgWrite idx val => Sys2Proof.Machine.execCfgWrite idx val s
  | .tBegin => Sys2Proof.Machine.execTBegin s
  | .tEnd => Sys2Proof.Machine.execTEnd s
  | .tWrite b => Sys2Proof.Machine.execTWrite b s
  | .tFlush => Sys2Proof.Machine.execTFlush s
  | .tReceive => Sys2Proof.Machine.execTReceive s
  | .tRead => Sys2Proof.Machine.execTRead s
  | .tReadBytes n timeout => Sys2Proof.Machine.execTReadBytes n timeout s
  | .tAvailable => Sys2Proof.Machine.execTAvailable s
  | .tMeta => Sys2Proof.Machine.execTMeta s
  | .evTxDone => Sys2Proof.Machine.execEvTxDone s
  | .evTxFailed errorCode => Sys2Proof.Machine.execEvTxFailed errorCode s
  | .evAckTimeout => Sys2Proof.Machine.execEvAckTimeout s
  | .evRetryDelayDone => Sys2Proof.Machine.execEvRetryDelayDone s
  | .evReadTimeout => Sys2Proof.Machine.execEvReadTimeout s
  | .evRxEnqueue raw rssi lqi channel => Sys2Proof.Machine.execEvRxEnqueue raw rssi lqi channel s
  | .sendNoconf => Sys2Proof.Machine.execSendNoconf s
  | .sendConf => Sys2Proof.Machine.execSendConf s
  | .arqIssue => Sys2Proof.Machine.execArqIssue s
  | .arqDecide => Sys2Proof.Machine.execArqDecide s
  | .seqValidate => Sys2Proof.Machine.execSeqValidate s
  | .rdStep => Sys2Proof.Machine.execRdStep s
  | .drain => Sys2Proof.Machine.execDrain s
  | .fcfWord w => Sys2Proof.Machine.execFcfWord w s

end Sys2Proof.Machine
end

