-- ==== Sys2Proof/Machine/Fetch.lean ====
section
/-! DEFINITION. How an operation comes to run: whose turn it is, the message its port presents, and decoding it
(20_memory.md R70, R71; 30_encoding.md R110, R115). The block has no program counter (R24): the schedule of
turns stands for the order in which the agents act (R42). -/

namespace Sys2Proof.Machine

/-- The turn is taken from the schedule; its radio answer is the step's input. -/
def State.startTurn (s : State) (t : Turn) (rest : List Turn) : State :=
  { s with io := { s.io with schedule := rest, txAnswer := t.txAnswer } }

/-- The command port holds these messages. -/
def State.setCmdPort (s : State) (ms : List (List Byte)) : State := { s with io := { s.io with cmdPort := ms } }

/-- The event port holds these messages. -/
def State.setEvPort (s : State) (ms : List (List Byte)) : State := { s with io := { s.io with evPort := ms } }

/-- What a turn comes to: an operation to run, or a state in which none is run. -/
inductive Fetched
  /-- No operation runs in this step. -/
  | pass (s : State)
  /-- The operation `i` runs from state `s`. -/
  | run (i : Instr) (s : State)
deriving DecidableEq, Repr

/-- The application agent's turn: a busy port takes nothing (R115); a message that is no command is answered
`E_ILLEGAL_CMD` and changes no register or buffer (R115). -/
def fetchCommand (s : State) : Fetched :=
  if s.appBusy then .pass s
  else
    match s.io.cmdPort with
    | [] => .pass s
    | m :: ms =>
        match decodeOn .command m with
        | .accepted i => .run i (s.setCmdPort ms)
        | .rejected _ => .pass ((s.setCmdPort ms).respond .illegalCmd [])

/-- The radio or timer agent's turn: the oldest message leaves the event port, whatever it is. A message that is no
event is dropped: events get no response (R110; notes/assumptions/11.md). DESIGN CHOICE (notes/assumptions/22.md): a
timer event whose timer is not armed, which R341 says does not happen, leaves the port too and is lost; it is not
kept until the timer is armed. -/
def fetchEvent (s : State) : Fetched :=
  match s.io.evPort with
  | [] => .pass s
  | m :: ms =>
      match decodeOn .event m with
      | .accepted i => .run i (s.setEvPort ms)
      | .rejected _ => .pass (s.setEvPort ms)

/-- The sequencer's turn: the internal step an opcode of group 0x5_ names (R110). -/
def fetchInternal (op : Byte) (s : State) : Fetched :=
  match decodeOn .internal [op] with
  | .accepted i => .run i s
  | .rejected _ => .pass s

/-- The layout row met on the wire (R95, R96). -/
def fetchWire (w : Half) (s : State) : Fetched :=
  match decodeOn .wire (halfBytes w) with
  | .accepted i => .run i s
  | .rejected _ => .pass s

/-- The turn of one slot. -/
def fetchSlot (slot : Slot) (s : State) : Fetched :=
  match slot with
  | .command => fetchCommand s
  | .event => fetchEvent s
  | .internal op => fetchInternal op s
  | .wire w => fetchWire w s
  | .reset => .pass s.hardReset

/-- The next step of the execution. With no turn left the block does nothing (R321). -/
def fetch (s : State) : Fetched :=
  match s.io.schedule with
  | [] => .pass s
  | t :: rest => fetchSlot t.slot (s.startTurn t rest)

/-- A message put in front of a port's messages, and a turn for it in front of the schedule. -/
def State.place (s : State) (p : Port) (msg : List Byte) : State :=
  let turn := fun (slot : Slot) => (⟨slot, s.io.txAnswer⟩ : Turn) :: s.io.schedule
  match p with
  | .command => { s with io := { s.io with cmdPort := msg :: s.io.cmdPort, schedule := turn .command } }
  | .event => { s with io := { s.io with evPort := msg :: s.io.evPort, schedule := turn .event } }
  | .internal => { s with io := { s.io with schedule := turn (.internal (msg.headD 0)) } }
  | .wire => { s with io := { s.io with schedule := turn (.wire (le16 (msg.headD 0) (msg.tail.headD 0))) } }

/-- The message a word of the opcode table begins, and the port it is met on: as many of its bytes as the
instruction has. Bytes that are no instruction stand on the command port as they are. -/
def tableMessage (nbits w : Nat) : Port × List Byte :=
  if nbits = 16 then (.wire, leBytes 2 w)
  else
    match decodeFirst (tableBytes nbits w) with
    | .ok i rest => (i.port, (tableBytes nbits w).take ((tableBytes nbits w).length - rest.length))
    | .rejected _ => (.command, leBytes (nbits / 8) w)

/-- The state in which the next step runs the instruction of a table word. -/
def State.placeTableWord (s : State) (nbits w : Nat) : State :=
  s.place (tableMessage nbits w).1 (tableMessage nbits w).2

end Sys2Proof.Machine
end

