-- ==== Sys2Proof/Machine/Step.lean ====
section
/-! DEFINITION. One step of the block: the turn the schedule gives, and the operation it runs (20_memory.md
R70). -/

namespace Sys2Proof.Machine

/-- One step (R18, R70): atomic, and seeing the state the step before it left. -/
def step (s : State) : Host.Outcome State Fault Refusal :=
  match fetch s with
  | .pass s' => .next s'
  | .run i s' => exec i s'

/-- `s` with the instruction of an opcode-table word stored where the next step fetches it: on its port, with
the next turn (an internal step: the next turn names it). -/
def State.withFetchWord (s : State) (nbits w : Nat) : State := s.placeTableWord nbits w

end Sys2Proof.Machine
end

