-- ==== Sys2Proof/Safety.lean ====
section
/-! DEFINITION. The terms claims about the block are made in: what a well-formed buffer, frame and state is, the
abstract content of a ring buffer (10_state.md R27), the canonical frame (41_codec.md R164), and runs of
several operations. -/

namespace Sys2Proof.Machine

/-! ### Buffers (R26, R27, R69) -/

/-- Every byte written lies inside a buffer of `n` bytes (R69, R344). -/
def Memory.within (n : Nat) (m : Memory) : Bool := m.all fun c => decide (c.1 < n)

/-- R25 and R26: the ranges of the registers, the relation of head, tail and count, and the storage within
its bounds and in canonical form. -/
structure RingBuffer.Wf (rb : RingBuffer) : Prop where
  capMax : rb.cap ≤ Config.rbCapMax
  count : rb.count ≤ rb.cap
  zero : rb.cap = 0 → rb.head = 0 ∧ rb.tail = 0
  head : 1 ≤ rb.cap → rb.head < rb.cap
  tail : 1 ≤ rb.cap → rb.tail = (rb.head + rb.count) % rb.cap
  canonical : rb.store.wf = true
  within : rb.store.within rb.cap = true

/-- The abstract content, oldest byte first: `store[(head + i) mod C]` for `i` below `count` (R27). -/
def RingBuffer.content (rb : RingBuffer) : List Byte :=
  (List.range rb.count).map fun i => rb.store.read ((rb.head + i) % rb.cap)

/-- A ring buffer operation, as the laws of R194 and R195 speak of them. -/
inductive RingCmd
  | write (b : Byte)
  | writeArray (data : List Byte)
  | read
  | readArray (n : Nat)
deriving DecidableEq, Repr

/-- A ring buffer with what it accepted and what it returned since some moment. -/
structure RingTrace where
  rb : RingBuffer
  accepted : List Byte
  returned : List Byte
deriving DecidableEq, Repr

/-- One operation of a trace. -/
def RingTrace.next (t : RingTrace) : RingCmd → RingTrace
  | .write b =>
      ⟨t.rb.write b, t.accepted ++ (if t.rb.isFull then [] else [b]), t.returned⟩
  | .writeArray data =>
      ⟨t.rb.writeArray data, t.accepted ++ data.take (t.rb.accepts data.length), t.returned⟩
  | .read =>
      ⟨t.rb.read, t.accepted, t.returned ++ (if t.rb.isEmpty then [] else [t.rb.headByte])⟩
  | .readArray n =>
      ⟨t.rb.consume n, t.accepted, t.returned ++ t.rb.front n⟩

/-- The operations one after another, from a buffer with nothing accepted and nothing returned. -/
def ringRun (rb : RingBuffer) (cmds : List RingCmd) : RingTrace := cmds.foldl RingTrace.next ⟨rb, [], []⟩

/-! ### Frames (R21, R164) -/

/-- The byte count of an Address's mode (R21). -/
def AddrMode.len : AddrMode → Nat
  | .none => 0
  | .short => 2
  | .extended => 8

/-- "byte count implied by mode is always consistent with stored length" (R21). -/
abbrev Address.Wf (a : Address) : Prop := a.bytes.length = a.mode.len

/-- Both addresses are well formed. -/
abbrev Frame.Wf (f : Frame) : Prop := f.dest.Wf ∧ f.src.Wf

/-- `canon(f)` (R164): what of `f` reaches the wire, with the values PARSE gives to what does not. -/
def canon (f : Frame) : Frame :=
  let destPan := if present (destModeOf f.fcf) then f.destPan else 0
  { f with
    seq := if seqSuppressed f.fcf then 0 else f.seq
    destPan := destPan
    srcPan :=
      if present (srcModeOf f.fcf) then if panCompressed f.fcf then destPan else f.srcPan else 0 }

/-! ### The state -/

/-- The bytes of the pending frame not yet written to RXB (R31). -/
def RxRegs.pendingRest (r : RxRegs) : List Byte :=
  if r.pendValid then r.pendBuf.readBytes r.pendOff (r.pendLen - r.pendOff) else []

/-- The accepted bytes on their way to the application, oldest first: in RXB, then in the pending frame
(R270). -/
def RxRegs.backlog (r : RxRegs) : List Byte := r.rxb.content ++ r.pendingRest

/-- The value of the configuration register of an index (R37). -/
def CfgRegs.value (c : CfgRegs) (idx : Nat) : Nat :=
  match idx with
  | 0 => c.panId.toNat
  | 1 => c.localAddrMode.toNat
  | 2 => c.localAddrVal.toNat
  | 3 => c.destAddrMode.toNat
  | 4 => c.destAddrVal.toNat
  | 5 => c.fcfTmpl.toNat
  | 6 => c.ackWait.toNat
  | 7 => c.retryCount.toNat
  | 8 => c.retryDelay.toNat
  | 9 => c.rxCap.toNat
  | 10 => c.txCap.toNat
  | _ => 0

/-- What holds of the state between any two steps. -/
structure State.Inv (s : State) : Prop where
  /-- R26 of the three instances. -/
  ub : s.ub.Wf
  txb : s.tx.txb.Wf
  rxb : s.rx.rxb.Wf
  /-- `PEND_BUF[0 .. 250]` and `TXFRAME[0 .. FRAME_MAX-1]` (R31, R32). -/
  pendBuf : s.rx.pendBuf.wf = true ∧ s.rx.pendBuf.within Config.pendMax = true
  txFrame : s.tx.txFrame.wf = true ∧ s.tx.txFrame.within Config.frameMax = true
  txFrameLen : s.tx.txFrameLen ≤ Config.frameMax
  /-- "0 <= PEND_OFF < PEND_LEN <= 251" while a frame is pending (R31). -/
  pending : s.rx.pendValid = true → s.rx.pendOff < s.rx.pendLen ∧ s.rx.pendLen ≤ Config.pendMax
  /-- `RETRIES_LEFT` is 0..255 (R32). -/
  retries : s.tx.retriesLeft ≤ 255
  /-- "equal to (ARQ_STATE = Waiting) at every step boundary" (R32). -/
  ackTimer : s.tx.ackTimerArmed = decide (s.tx.arqState = .waiting)
  /-- The states of the table of R232. -/
  arqSends : s.tx.arqState ≠ .idle → s.tx.sendActive = true
  delaySends : s.tx.delayArmed = true → s.tx.sendActive = true ∧ s.tx.arqState = .idle
  /-- What each multi-step command keeps active (R34). -/
  sendBusy : s.tx.sendActive = true ↔ s.appCmd = .write ∨ s.appCmd = .flush
  readBusy : s.rd.active = true ↔ s.appCmd = .read
  busyLive : s.appCmd ≠ .none → s.live = true
  /-- "RD_DATA (byte sequence of length RD_GOT ...)" (R33), and a read in progress is short. -/
  readCount : s.rd.got = s.rd.data.length
  readShort : s.rd.active = true → s.rd.got < s.rd.want
  /-- While a read is in progress its timer is armed or has fired; else neither (R36). -/
  readTimer : s.rd.active = true → s.rd.timerArmed = !s.rd.expired
  readIdle : s.rd.active = false → s.rd.timerArmed = false ∧ s.rd.expired = false
  /-- Internal operations leave nothing to the next step. -/
  latch : s.latch = .clear
  /-- A mode register never holds the Reserved mode (R37). -/
  modes : s.cfg.localAddrMode ≠ 1 ∧ s.cfg.destAddrMode ≠ 1
  /-- The owned buffers have the configured capacities throughout a session (R38, R211). -/
  caps : s.live = true → s.tx.txb.cap = s.cfg.txCap.toNat ∧ s.rx.rxb.cap = s.cfg.rxCap.toNat
  /-- R213: `TXB.count < min(MTU, TX_CAP)` when TX_CAP >= 1, and 0 when TX_CAP = 0. -/
  staged : s.tx.txb.count < Config.mtu ∧ (1 ≤ s.tx.txb.cap → s.tx.txb.count < s.tx.txb.cap)
  /-- With no session the session registers hold the "reset" column's values (R41, R212). -/
  quiet : s.live = false → s.tx.txb.cap = 0 ∧ s.rx.rxb.cap = 0 ∧ s.tx.outSeq = 0 ∧ s.tx.txFrameLen = 0
    ∧ s.rx.lastSeqValid = false ∧ s.rx.pendValid = false ∧ s.rx.metaValid = false

/-! ### What a step puts out, and what it stores -/

/-- The response `bytes` goes out on the command port; nothing else changes. -/
def State.replied (s : State) (bytes : List Byte) : State :=
  { s with io := { s.io with cmdOut := s.io.cmdOut ++ [bytes] } }

/-- The records `ds` go out on DIAG; nothing else changes. -/
def State.noted (s : State) (ds : List Diag) : State := { s with io := { s.io with diag := s.io.diag ++ ds } }

/-- `m'` is the buffer `m` after the bytes `bs` were stored from index `a` on: every other byte is as it was. -/
structure Memory.Stored (m m' : Memory) (a : Nat) (bs : List Byte) : Prop where
  inside : ∀ i (h : i < bs.length), m'.read (a + i) = bs[i]
  outside : ∀ x, x < a ∨ a + bs.length ≤ x → m'.read x = m.read x

/-- `u` is the ring buffer `rb` after the bytes `bs` were appended: byte `i` went to index
`(tail + i) mod C`, and every other storage byte is as it was. -/
structure RingBuffer.Appended (rb u : RingBuffer) (bs : List Byte) : Prop where
  cap : u.cap = rb.cap
  head : u.head = rb.head
  tail : u.tail = if bs.length = 0 then rb.tail else (rb.tail + bs.length) % rb.cap
  count : u.count = rb.count + bs.length
  inside : ∀ i (h : i < bs.length), u.store.read ((rb.tail + i) % rb.cap) = bs[i]
  outside : ∀ x, (∀ i, i < bs.length → x ≠ (rb.tail + i) % rb.cap) → u.store.read x = rb.store.read x

/-- The ring buffer `rb` after its `k` oldest bytes were taken: no storage byte changes. -/
def RingBuffer.without (rb : RingBuffer) (k : Nat) : RingBuffer :=
  { rb with head := if k = 0 then rb.head else (rb.head + k) % rb.cap, count := rb.count - k }

/-- The payload that the next receive step accepts: none while a frame is pending, when no frame waits, when it
does not parse, and when it is a duplicate (R251, R254). -/
def State.incoming (s : State) : List Byte :=
  if s.rx.pendValid then []
  else
    match s.env.inq with
    | [] => []
    | fr :: _ =>
        match parse fr.raw with
        | none => []
        | some f => if !f.fcf.getLsbD 8 && s.rx.lastSeqValid && decide (f.seq = s.rx.lastSeq) then [] else f.payload

/-! ### Families of operations -/

/-- The operations of the receive path (44_transport_rx.md). -/
def receiveOp : Instr → Bool
  | .tReceive | .tRead | .tReadBytes _ _ | .tAvailable | .tMeta => true
  | .evReadTimeout | .evRxEnqueue _ _ _ _ | .seqValidate | .rdStep => true
  | _ => false

/-- The operations of the transmit path (43_transport_tx.md), the session commands apart. -/
def transmitOp : Instr → Bool
  | .tWrite _ | .tFlush | .evTxDone | .evTxFailed _ | .evAckTimeout | .evRetryDelayDone => true
  | .sendNoconf | .sendConf | .arqIssue | .arqDecide | .drain => true
  | _ => false

/-- The value-type, codec and ring buffer commands, groups 0x0_, 0x1_ and 0x2_ (R346). -/
def leafOp : Instr → Bool
  | .addrLen _ | .addrMake _ _ | .fcfUnpack _ | .fcfPack _ | .parse _ | .build _ _ _ _ _ _ _ _ => true
  | .rbWrite _ _ | .rbWriteArray _ _ | .rbRead _ | .rbReadArray _ _ | .rbPeek _ | .rbAvailable _ => true
  | .rbAvailableForWrite _ | .rbIsFull _ | .rbIsEmpty _ | .rbResize _ _ => true
  | _ => false

/-! ### Runs of several operations -/

/-- The radio agent's answer to a `transmit` call of the next operation is `a`. -/
def State.answering (s : State) (a : Bool) : State := { s with io := { s.io with txAnswer := a } }

/-- Operations one after another, each with the radio agent's answer, as long as they go on. -/
def runOps : List (Instr × Bool) → State → Host.Outcome State Fault Refusal
  | [], s => .next s
  | (i, a) :: rest, s =>
      match exec i (s.answering a) with
      | .next t => runOps rest t
      | .fault e => .fault e
      | .refused e => .refused e

/-- How an attempt fails (R233): by error return, by `EV_TX_FAILED`, or by `EV_ACK_TIMEOUT`. -/
inductive AttemptFailure
  | refusedByRadio
  | reported (errorCode : Word32)
  | timedOut
deriving DecidableEq, Repr

/-- One failing attempt, up to the retry decision. -/
def AttemptFailure.steps : AttemptFailure → List (Instr × Bool)
  | .refusedByRadio => [(.arqIssue, false), (.arqDecide, false)]
  | .reported errorCode => [(.arqIssue, true), (.evTxFailed errorCode, false), (.arqDecide, false)]
  | .timedOut => [(.arqIssue, true), (.evAckTimeout, false), (.arqDecide, false)]

/-- Failing attempts, each but the last followed by the end of the inter-attempt delay. -/
def failingSend : List AttemptFailure → List (Instr × Bool)
  | [] => []
  | [k] => k.steps
  | k :: ks => k.steps ++ (.evRetryDelayDone, false) :: failingSend ks

end Sys2Proof.Machine
end

