-- ==== Sys2Proof/Certificates/Slice0/Obligations.lean ====
section
/-! DEFINITION. The statements about the block. Each docstring names the rules of spec/ it says, and where a
clause is the model's own choice, the entry of notes/assumptions/ that makes it. "Idle port" is `APP_CMD = None`
(R34): a busy port takes no command. -/

open Sys2Proof Sys2Proof.Machine

/-! ### Reset, invariants, steps -/

/-- What the machine holds right after reset: the "reset" column of R41. Where the column says "unspecified" the
zero is the model's choice (notes/assumptions/3.md, 4.md); ports, queues and the model's own fields are empty
(notes/assumptions/2.md). -/
def Obligations.ResetValues : Prop :=
  let s := State.reset
  (s.live = false ∧ s.appCmd = .none)
  ∧ (s.tx.outSeq = 0 ∧ s.tx.arqState = .idle ∧ s.tx.sendActive = false ∧ s.tx.delayArmed = false
    ∧ s.tx.ackTimerArmed = false ∧ s.tx.retriesLeft = 0 ∧ s.tx.txFrameLen = 0)
  ∧ (s.rx.lastSeqValid = false ∧ s.rx.pendValid = false ∧ s.rx.metaValid = false)
  ∧ (s.rd.active = false ∧ s.rd.timerArmed = false ∧ s.rd.expired = false ∧ s.rd.want = 0 ∧ s.rd.got = 0
    ∧ s.rd.data = [])
  ∧ (∀ rb ∈ [s.tx.txb, s.rx.rxb, s.ub], rb.cap = 0 ∧ rb.head = 0 ∧ rb.tail = 0 ∧ rb.count = 0)
  ∧ ((∀ i, s.cfg.value i = 0) ∧ s.rx.lastSeq = 0 ∧ s.rx.pendLen = 0 ∧ s.rx.pendOff = 0 ∧ s.rx.rssi = 0
    ∧ s.rx.lqi = 0 ∧ s.rx.channel = 0)
  ∧ (s.env.inq = [] ∧ s.env.inflight = [] ∧ s.io.schedule = [] ∧ s.io.cmdPort = [] ∧ s.io.evPort = []
    ∧ s.latch = .clear)

/-- Asserting the reset input in any state puts every register at the "reset" column of R41; what is unspecified
there is not constrained, but for the mode registers, which hold a legal mode (R320). The environment is not
reached (R322) and no response is sent (R321). The model's choice: reset is a turn of the schedule and the messages
waiting on both ports stay (notes/assumptions/18.md), the turn's radio answer is recorded (notes/assumptions/17.md),
and the model's own latches are cleared (notes/assumptions/10.md). -/
def Obligations.HardwareReset : Prop :=
  ∀ (s : State) (a : Bool) (rest : List Turn), s.io.schedule = ⟨.reset, a⟩ :: rest →
    ∃ t, step s = .next t
      ∧ (t.live = false ∧ t.appCmd = .none)
      ∧ (t.tx.outSeq = 0 ∧ t.tx.arqState = .idle ∧ t.tx.sendActive = false ∧ t.tx.delayArmed = false
        ∧ t.tx.ackTimerArmed = false ∧ t.tx.retriesLeft = 0 ∧ t.tx.txFrameLen = 0)
      ∧ (t.rx.lastSeqValid = false ∧ t.rx.pendValid = false ∧ t.rx.metaValid = false)
      ∧ (t.rd.active = false ∧ t.rd.timerArmed = false ∧ t.rd.expired = false ∧ t.rd.want = 0 ∧ t.rd.got = 0
        ∧ t.rd.data = [])
      ∧ (∀ rb ∈ [t.tx.txb, t.rx.rxb, t.ub], rb.cap = 0 ∧ rb.head = 0 ∧ rb.tail = 0 ∧ rb.count = 0)
      ∧ (t.cfg.value 1 ∈ [0, 2, 3] ∧ t.cfg.value 3 ∈ [0, 2, 3])
      ∧ t.latch = .clear
      ∧ t.env = s.env
      ∧ t.io = { s.io with schedule := rest, txAnswer := a }

/-- The invariant holds right after reset. -/
def Obligations.ResetSatisfiesInvariant : Prop := State.reset.Inv

/-- Every step keeps the invariant, from every state that has it: R26 of the three ring buffers, the canonical
form and the bounds of every buffer (R69), the pending frame's bounds (R31), the acknowledgment timer armed
exactly while waiting (R32), the reachable states of R232, one command at a time (R34), the read registers
(R33), legal modes (R37), capacities (R38), and `TXB` below a frame's worth (R213). -/
def Obligations.StepKeepsInvariant : Prop :=
  ∀ s t : State, s.Inv → step s = .next t → t.Inv

/-- A step runs the instruction its port presents, decoded (R70, R71, R110): the command at an idle command port,
the event at the event port, the internal step the turn names; the turn and the message are used up and the
radio's answer is the step's input. -/
def Obligations.StepRunsDecodedInstruction : Prop :=
  ∀ (s : State) (a : Bool) (rest : List Turn) (i : Instr) (m : List Byte) (ms : List (List Byte)) (op : Byte),
    (s.io.schedule = ⟨.command, a⟩ :: rest → s.appCmd = .none → s.io.cmdPort = m :: ms →
      decodeOn .command m = .accepted i →
      step s = exec i { s with io := { s.io with schedule := rest, txAnswer := a, cmdPort := ms } })
    ∧ (s.io.schedule = ⟨.event, a⟩ :: rest → s.io.evPort = m :: ms → decodeOn .event m = .accepted i →
      step s = exec i { s with io := { s.io with schedule := rest, txAnswer := a, evPort := ms } })
    ∧ (s.io.schedule = ⟨.internal op, a⟩ :: rest → decodeOn .internal [op] = .accepted i →
      step s = exec i { s with io := { s.io with schedule := rest, txAnswer := a } })

/-- Steps that run no instruction. A message that is no command is answered `E_ILLEGAL_CMD` and changes no
register (R115; that an event's opcode on this port counts as one is deduced, notes/assumptions/11.md); a busy port
takes nothing (R115); with nothing presented nothing happens (R321). That an ill-formed event is dropped is the
model's choice (notes/assumptions/11.md), as is the idle turn (notes/assumptions/7.md). -/
def Obligations.StepWithoutInstruction : Prop :=
  ∀ (s : State) (a : Bool) (rest : List Turn) (m : List Byte) (ms : List (List Byte)) (e : DecodeError),
    (s.io.schedule = [] → step s = .next s)
    ∧ (s.io.schedule = ⟨.command, a⟩ :: rest → s.appCmd ≠ .none →
      step s = .next { s with io := { s.io with schedule := rest, txAnswer := a } })
    ∧ (s.io.schedule = ⟨.command, a⟩ :: rest → s.appCmd = .none → s.io.cmdPort = [] →
      step s = .next { s with io := { s.io with schedule := rest, txAnswer := a } })
    ∧ (s.io.schedule = ⟨.command, a⟩ :: rest → s.appCmd = .none → s.io.cmdPort = m :: ms →
      decodeOn .command m = .rejected e →
      step s = .next (State.replied { s with io := { s.io with schedule := rest, txAnswer := a, cmdPort := ms } }
        [0x0A]))
    ∧ (s.io.schedule = ⟨.event, a⟩ :: rest → s.io.evPort = m :: ms → decodeOn .event m = .rejected e →
      step s = .next { s with io := { s.io with schedule := rest, txAnswer := a, evPort := ms } })

/-! ### Encodings (30_encoding.md) -/

/-- Decoding the bytes of a well-formed instruction, on the port they belong to, gives it back, with every operand
at every value. -/
def Obligations.DecodeEncodeAgree : Prop :=
  ∀ i : Instr, i.WellFormed → decodeOn i.port (encode i) = .accepted i

/-- Only encodings are accepted: what the decoder accepts is well formed, belongs to the port, and the bytes are
exactly its encoding, so that an unknown opcode, an internal step's opcode on a port, and bytes too few or too
many are rejected (R115). -/
def Obligations.OnlyEncodingsAreAccepted : Prop :=
  ∀ (p : Port) (m : List Byte) (i : Instr), decodeOn p m = .accepted i →
    i.WellFormed ∧ i.port = p ∧ encode i = m

/-- Words written out from R111, R112 and the programs of 95_test_vectors.md decode to what they stand for; words
R115 calls illegal are rejected. -/
def Obligations.SampleWordsDecode : Prop :=
  decodeOn .command [0x01, 0x03] = .accepted (.addrLen 3)
  ∧ decodeOn .command [0x03, 0x41, 0x88] = .accepted (.fcfUnpack 0x8841)
  ∧ decodeOn .command [0x10, 0x03, 0x00, 0x03, 0x01, 0x00] = .accepted (.parse [0x03, 0x01, 0x00])
  ∧ decodeOn .command [0x23, 0x02, 0x0A, 0x00] = .accepted (.rbReadArray 2 10)
  ∧ decodeOn .command [0x30, 0x09, 0x40, 0, 0, 0, 0, 0, 0, 0] = .accepted (.cfgWrite 9 64)
  ∧ decodeOn .command [0x37, 0x03, 0x00, 0xE8, 0x03, 0x00, 0x00] = .accepted (.tReadBytes 3 1000)
  ∧ decodeOn .event [0x41, 0x07, 0x00, 0x00, 0x00] = .accepted (.evTxFailed 7)
  ∧ decodeOn .event [0x45, 0x03, 0x00, 0x03, 0x01, 0x00, 0xC4, 0xFF, 0x0B]
      = .accepted (.evRxEnqueue [0x03, 0x01, 0x00] 0xC4 0xFF 0x0B)
  ∧ decodeOn .internal [0x53] = .accepted .arqDecide
  ∧ decodeOn .command [0x05] = .rejected (.unknownOpcode 0x05)
  ∧ decodeOn .command [0x53] = .rejected .wrongPort
  ∧ decodeOn .command [0x33] = .rejected .tooFew
  ∧ decodeOn .command [0x31, 0x00] = .rejected .tooMany

/-! ### Value types (40_value_types.md) -/

/-- `ADDR_LEN` (R132): its encoding, the four lengths, and the refusal of an operand above 3. -/
def Obligations.AddrLenResult : Prop :=
  (∀ b, decodeOn .command [0x01, b] = .accepted (.addrLen b))
  ∧ ∀ s : State, s.appCmd = .none →
    exec (.addrLen 0) s = .next (s.replied [0x00, 0])
    ∧ exec (.addrLen 1) s = .next (s.replied [0x00, 0])
    ∧ exec (.addrLen 2) s = .next (s.replied [0x00, 2])
    ∧ exec (.addrLen 3) s = .next (s.replied [0x00, 8])
    ∧ ∀ b : Byte, 3 < b.toNat → exec (.addrLen b) s = .next (s.replied [0x0A])

/-- `ADDR_MAKE` (R133): the Address of each mode, sent as its mode and its bytes (R114), and the two refusals. -/
def Obligations.AddrMakeResult : Prop :=
  (∀ mode b0 b1 b2 b3 b4 b5 b6 b7,
    decodeOn .command [0x02, mode, b0, b1, b2, b3, b4, b5, b6, b7]
      = .accepted (.addrMake mode [b0, b1, b2, b3, b4, b5, b6, b7]))
  ∧ ∀ (s : State) (b : List Byte), s.appCmd = .none → b.length = 8 →
    exec (.addrMake 0 b) s = .next (s.replied [0x00, 0])
    ∧ exec (.addrMake 1 b) s = .next (s.replied [0x09])
    ∧ exec (.addrMake 2 b) s = .next (s.replied (0x00 :: 2 :: b.take 2))
    ∧ exec (.addrMake 3 b) s = .next (s.replied (0x00 :: 3 :: b))
    ∧ ∀ mode : Byte, 3 < mode.toNat → exec (.addrMake mode b) s = .next (s.replied [0x0A])

/-- `FCF_UNPACK` (R134): the eleven fields of the word, one byte each, at their bit positions. -/
def Obligations.FcfUnpackResult : Prop :=
  (∀ b0 b1, decodeOn .command [0x03, b0, b1] = .accepted (.fcfUnpack (le16 b0 b1)))
  ∧ ∀ (s : State) (w : Half), s.appCmd = .none →
    exec (.fcfUnpack w) s = .next (s.replied (0x00 ::
      [(0, 3), (3, 1), (4, 1), (5, 1), (6, 1), (7, 1), (8, 1), (9, 1), (10, 2), (12, 2), (14, 2)].map
        fun (p : Nat × Nat) => BitVec.ofNat 8 (w.toNat / 2 ^ p.1 % 2 ^ p.2)))

/-- `FCF_PACK` (R135): the weighted sum, low byte first, when every field is in range, else `E_ILLEGAL_CMD`. -/
def Obligations.FcfPackResult : Prop :=
  (∀ f0 f1 f2 f3 f4 f5 f6 f7 f8 f9 f10,
    decodeOn .command [0x04, f0, f1, f2, f3, f4, f5, f6, f7, f8, f9, f10]
      = .accepted (.fcfPack ⟨f0, f1, f2, f3, f4, f5, f6, f7, f8, f9, f10⟩))
  ∧ ∀ (s : State) (f : FcfBytes), s.appCmd = .none →
    let legal := f.frameType.toNat < 8 ∧ f.securityEnabled.toNat < 2 ∧ f.framePending.toNat < 2
      ∧ f.ackRequest.toNat < 2 ∧ f.panIdCompression.toNat < 2 ∧ f.reserved.toNat < 2
      ∧ f.sequenceNumberSuppression.toNat < 2 ∧ f.informationElementsPresent.toNat < 2
      ∧ f.destAddrMode.toNat < 4 ∧ f.frameVersion.toNat < 4 ∧ f.srcAddrMode.toNat < 4
    let w := f.frameType.toNat + 8 * f.securityEnabled.toNat + 16 * f.framePending.toNat
      + 32 * f.ackRequest.toNat + 64 * f.panIdCompression.toNat + 128 * f.reserved.toNat
      + 256 * f.sequenceNumberSuppression.toNat + 512 * f.informationElementsPresent.toNat
      + 1024 * f.destAddrMode.toNat + 4096 * f.frameVersion.toNat + 16384 * f.srcAddrMode.toNat
    (legal → exec (.fcfPack f) s
      = .next (s.replied [0x00, BitVec.ofNat 8 (w % 256), BitVec.ofNat 8 (w / 256)]))
    ∧ (¬ legal → exec (.fcfPack f) s = .next (s.replied [0x0A]))

/-- The laws of R137: packing and unpacking are inverse both ways, and the header length depends on the word only
through bits 6, 8, 11:10 and 15:14. -/
def Obligations.FcfLaws : Prop :=
  (∀ w : Half, packFcf (unpackFcf w) = w)
  ∧ (∀ f : Fcf, unpackFcf (packFcf f) = f)
  ∧ ∀ w w' : Half, (∀ i ∈ [6, 8, 10, 11, 14, 15], w.getLsbD i = w'.getLsbD i) → hdrLen w = hdrLen w'

/-! ### The codec (41_codec.md) -/

/-- The header length (R151): the formula, its least and greatest values, and the table. -/
def Obligations.HeaderLength : Prop :=
  (∀ w : Half,
    let len := fun m : Nat => if m = 2 then 2 else if m = 3 then 8 else 0
    let dest := w.toNat / 1024 % 4
    let src := w.toNat / 16384 % 4
    hdrLen w = 2 + (if w.toNat / 256 % 2 = 1 then 0 else 1) + (if len dest > 0 then 2 else 0) + len dest
      + (if len src > 0 ∧ w.toNat / 64 % 2 = 0 then 2 else 0) + len src
    ∧ 2 ≤ hdrLen w ∧ hdrLen w ≤ 23)
  ∧ hdrLen 0x0100 = 2 ∧ hdrLen 0xCC01 = 23
  ∧ ([(0, 0), (0, 1), (1, 0), (1, 1)].map fun (p : Nat × Nat) =>
      [(0, 0), (0, 2), (0, 3), (2, 0), (2, 2), (2, 3), (3, 0), (3, 2), (3, 3)].map fun (q : Nat × Nat) =>
        hdrLen (BitVec.ofNat 16 (256 * p.1 + 64 * p.2 + 1024 * q.1 + 16384 * q.2)))
    = [[3, 7, 13, 7, 11, 17, 13, 17, 23], [3, 5, 11, 7, 9, 15, 13, 15, 21], [2, 6, 12, 6, 10, 16, 12, 16, 22],
      [2, 4, 10, 6, 8, 14, 12, 14, 20]]

/-- When `PARSE` succeeds (R153, R158): exactly when the bytes supplied are as many as byte 0 declares and the
declared length holds the length byte, the header the FCF calls for and the terminator. What it answers depends
only on byte 0 and the bytes before the terminator's place: neither the terminator (R154) nor excess bytes are
read. -/
def Obligations.ParseAcceptsExactly : Prop :=
  (∀ raw : List Byte,
    (parse raw).isSome = true
      ↔ 2 + hdrLen (le16 (raw.getD 1 0) (raw.getD 2 0)) ≤ (raw.getD 0 0).toNat
        ∧ (raw.getD 0 0).toNat ≤ raw.length)
  ∧ ∀ raw raw' : List Byte, raw.getD 0 0 = raw'.getD 0 0 →
    (raw.getD 0 0).toNat ≤ raw.length → (raw.getD 0 0).toNat ≤ raw'.length →
    (∀ x, 1 ≤ x → x + 1 < (raw.getD 0 0).toNat → raw.getD x 0 = raw'.getD x 0) → parse raw = parse raw'

/-- `PARSE` as a command (R152, R114): the Frame in the layout of format `CF` without `cap`, or `E_MALFORMED` and
no results; nothing else changes. What fills an address field beyond the address's own bytes is not
constrained (notes/assumptions/9.md). -/
def Obligations.ParseCommandAnswers : Prop :=
  ∀ (s : State) (raw : List Byte), s.appCmd = .none →
    (parse raw = none → exec (.parse raw) s = .next (s.replied [0x01]))
    ∧ ∀ f, parse raw = some f →
      ∃ padDest padSrc : List Byte, f.dest.bytes.length + padDest.length = 8
        ∧ f.src.bytes.length + padSrc.length = 8
        ∧ exec (.parse raw) s = .next (s.replied (0x00 :: ([lo8 f.fcf, hi8 f.fcf, f.seq, lo8 f.destPan,
          hi8 f.destPan, lo8 f.srcPan, hi8 f.srcPan] ++ f.dest.bytes ++ padDest ++ f.src.bytes ++ padSrc
          ++ [BitVec.ofNat 8 f.payload.length] ++ f.payload)))

/-- Where each field of a parsed frame stands (R104), little-endian numbers (R60), addresses in index order (R62),
and the value of each absent field (R155, R156, R157). -/
def Obligations.ParseFieldPlaces : Prop :=
  ∀ (raw : List Byte) (f : Frame), parse raw = some f →
    let w := le16 (raw.getD 1 0) (raw.getD 2 0)
    let dest := destModeOf w
    let src := srcModeOf w
    let sq := if w.getLsbD 8 then 0 else 1
    let pd := if present dest then 2 else 0
    let ps := if present src ∧ w.getLsbD 6 = false then 2 else 0
    f.fcf = w
    ∧ f.seq = (if w.getLsbD 8 then 0 else raw.getD 3 0)
    ∧ f.destPan = (if present dest then le16 (raw.getD (3 + sq) 0) (raw.getD (4 + sq) 0) else 0)
    ∧ f.dest = ⟨modeOf dest, (raw.drop (3 + sq + pd)).take (addrLen dest)⟩
    ∧ f.srcPan = (if present src then
        if w.getLsbD 6 then f.destPan
        else le16 (raw.getD (3 + sq + pd + addrLen dest) 0) (raw.getD (4 + sq + pd + addrLen dest) 0)
      else 0)
    ∧ f.src = ⟨modeOf src, (raw.drop (3 + sq + pd + addrLen dest + ps)).take (addrLen src)⟩
    ∧ f.payload = (raw.drop (1 + hdrLen w)).take ((raw.getD 0 0).toNat - 2 - hdrLen w)
    ∧ f.dest.bytes.length = addrLen dest ∧ f.src.bytes.length = addrLen src
    ∧ f.payload.length = (raw.getD 0 0).toNat - 2 - hdrLen w

/-- The two round trips of R164, for every Frame whose addresses are Addresses (R21) and every input: parsing what
`BUILD` accepted gives `canon`, and building what `PARSE` accepted gives the declared bytes back with the
terminator 0x00. -/
def Obligations.CodecRoundTrip : Prop :=
  (∀ (f : Frame) (cap : Nat) (out : List Byte), f.Wf → build f cap = .ok out → parse out = some (canon f))
  ∧ ∀ (raw : List Byte) (f : Frame), parse raw = some f →
    build f 255 = .ok (raw.take ((raw.getD 0 0).toNat - 1) ++ [0x00])

/-- `BUILD` (R161): what the command answers, byte for byte, and nothing else changes; as a function of a Frame,
an address that disagrees with the FCF is refused before the size is looked at (R160, R290). -/
def Obligations.BuildResult : Prop :=
  (∀ (s : State) (cap fcf : Half) (seq : Byte) (destPan srcPan : Half) (destAddr srcAddr payload : List Byte),
    s.appCmd = .none → destAddr.length = 8 → srcAddr.length = 8 → payload.length < 256 →
    let total := 2 + hdrLen fcf + payload.length
    let i := Instr.build cap fcf seq destPan srcPan destAddr srcAddr payload
    (255 < total ∨ cap.toNat < total → exec i s = .next (s.replied [0x08]))
    ∧ (total ≤ 255 → total ≤ cap.toNat → exec i s = .next (s.replied (0x00 ::
        (BitVec.ofNat 8 total :: 0x00 :: BitVec.ofNat 8 total :: lo8 fcf :: hi8 fcf ::
          ((if fcf.getLsbD 8 then [] else [seq])
            ++ (if present (destModeOf fcf) then [lo8 destPan, hi8 destPan] else [])
            ++ destAddr.take (addrLen (destModeOf fcf))
            ++ (if present (srcModeOf fcf) ∧ fcf.getLsbD 6 = false then [lo8 srcPan, hi8 srcPan] else [])
            ++ srcAddr.take (addrLen (srcModeOf fcf)) ++ payload ++ [0x00]))))))
  ∧ (∀ (f : Frame) (cap : Nat), f.dest.mode ≠ modeOf (destModeOf f.fcf) ∨ f.src.mode ≠ modeOf (srcModeOf f.fcf) →
    build f cap = .error .refused)
  ∧ ∀ (f : Frame) (cap : Nat), f.dest.mode = modeOf (destModeOf f.fcf) → f.src.mode = modeOf (srcModeOf f.fcf) →
    255 < 2 + hdrLen f.fcf + f.payload.length ∨ cap < 2 + hdrLen f.fcf + f.payload.length →
    build f cap = .error .buildOverflow

/-- A built frame has exactly `2 + hdrLen(w) + N` bytes, the first of which is that number and the last of which
is 0x00 (R162, R165). -/
def Obligations.BuiltFrameShape : Prop :=
  ∀ (f : Frame) (cap : Nat) (out : List Byte), f.Wf → build f cap = .ok out →
    out.length = 2 + hdrLen f.fcf + f.payload.length
    ∧ out.length ≤ 255 ∧ out.length ≤ cap
    ∧ (out.getD 0 0).toNat = out.length
    ∧ out.getD (out.length - 1) 1 = 0x00

/-! ### The ring buffer (42_ringbuffer.md) -/

/-- The ten `RB_` commands on an instance other than `UB` (R181): refused for TXB and RXB, illegal from 3 on;
nothing changes. -/
def Obligations.RingCommandsNeedUserBuffer : Prop :=
  ∀ (s : State) (rb b : Byte) (data : List Byte) (n : Half), s.appCmd = .none → rb ≠ 2 →
    ∀ i ∈ [Instr.rbWrite rb b, .rbWriteArray rb data, .rbRead rb, .rbReadArray rb n, .rbPeek rb,
        .rbAvailable rb, .rbAvailableForWrite rb, .rbIsFull rb, .rbIsEmpty rb, .rbResize rb n],
      exec i s = .next (s.replied [if rb = 0 ∨ rb = 1 then 0x09 else 0x0A])

/-- `RB_WRITE` on UB (R182, R183): the byte goes to the tail and is appended to the content; when full nothing
changes. -/
def Obligations.RbWriteResult : Prop :=
  (∀ rb b, decodeOn .command [0x20, rb, b] = .accepted (.rbWrite rb b))
  ∧ ∀ (s : State) (b : Byte), s.appCmd = .none → s.ub.Wf →
    (s.ub.count = s.ub.cap → exec (.rbWrite 2 b) s = .next (s.replied [0x00, 0]))
    ∧ (s.ub.count < s.ub.cap →
      ∃ u : RingBuffer, exec (.rbWrite 2 b) s = .next (State.replied { s with ub := u } [0x00, 1])
        ∧ u.cap = s.ub.cap ∧ u.head = s.ub.head ∧ u.tail = (s.ub.tail + 1) % s.ub.cap
        ∧ u.count = s.ub.count + 1
        ∧ u.store.read s.ub.tail = b ∧ (∀ x, x ≠ s.ub.tail → u.store.read x = s.ub.store.read x)
        ∧ u.content = s.ub.content ++ [b])

/-- `RB_WRITE_ARRAY` on UB (R184): the first `k = min(n, C - count)` bytes go to consecutive places from the tail,
wrapping, and are appended to the content; no other storage byte changes. -/
def Obligations.RbWriteArrayResult : Prop :=
  (∀ (rb : Byte) (data : List Byte), data.length < 65536 →
    decodeOn .command (0x21 :: rb :: BitVec.ofNat 8 data.length :: BitVec.ofNat 8 (data.length / 256) :: data)
      = .accepted (.rbWriteArray rb data))
  ∧ ∀ (s : State) (data : List Byte), s.appCmd = .none → s.ub.Wf →
    let k := min data.length (s.ub.cap - s.ub.count)
    ∃ u : RingBuffer,
      exec (.rbWriteArray 2 data) s
        = .next (State.replied { s with ub := u } [0x00, BitVec.ofNat 8 k, BitVec.ofNat 8 (k / 256)])
      ∧ s.ub.Appended u (data.take k)
      ∧ u.content = s.ub.content ++ data.take k

/-- `RB_READ` and `RB_PEEK` on UB (R185, R188): the oldest byte, which `RB_READ` takes and `RB_PEEK` leaves; when
empty the pair (false, 0x00) and nothing changes. -/
def Obligations.RbReadAndPeekResult : Prop :=
  (∀ rb, decodeOn .command [0x22, rb] = .accepted (.rbRead rb))
  ∧ (∀ rb, decodeOn .command [0x24, rb] = .accepted (.rbPeek rb))
  ∧ ∀ s : State, s.appCmd = .none → s.ub.Wf →
    (s.ub.count = 0 → exec (.rbRead 2) s = .next (s.replied [0x00, 0, 0])
      ∧ exec (.rbPeek 2) s = .next (s.replied [0x00, 0, 0]))
    ∧ (0 < s.ub.count →
      ∃ u : RingBuffer,
        exec (.rbRead 2) s = .next (State.replied { s with ub := u } [0x00, 1, s.ub.store.read s.ub.head])
        ∧ exec (.rbPeek 2) s = .next (s.replied [0x00, 1, s.ub.store.read s.ub.head])
        ∧ u = { s.ub with head := (s.ub.head + 1) % s.ub.cap, count := s.ub.count - 1 }
        ∧ s.ub.content = s.ub.store.read s.ub.head :: u.content)

/-- `RB_READ_ARRAY` on UB (R187): the `k = min(n, count)` oldest bytes, oldest first, are taken; no storage byte
changes. -/
def Obligations.RbReadArrayResult : Prop :=
  (∀ rb b0 b1, decodeOn .command [0x23, rb, b0, b1] = .accepted (.rbReadArray rb (le16 b0 b1)))
  ∧ ∀ (s : State) (n : Half), s.appCmd = .none → s.ub.Wf →
    let k := min n.toNat s.ub.count
    let out := (List.range k).map fun i => s.ub.store.read ((s.ub.head + i) % s.ub.cap)
    exec (.rbReadArray 2 n) s = .next (State.replied { s with ub := s.ub.without k }
        (0x00 :: BitVec.ofNat 8 k :: BitVec.ofNat 8 (k / 256) :: out))
      ∧ s.ub.content = out ++ (s.ub.without k).content

/-- The four queries on UB (R189 to R192): the count, the free places, and the two derived flags; nothing
changes. -/
def Obligations.RbQueriesResult : Prop :=
  (∀ rb, decodeOn .command [0x25, rb] = .accepted (.rbAvailable rb)
    ∧ decodeOn .command [0x26, rb] = .accepted (.rbAvailableForWrite rb)
    ∧ decodeOn .command [0x27, rb] = .accepted (.rbIsFull rb)
    ∧ decodeOn .command [0x28, rb] = .accepted (.rbIsEmpty rb))
  ∧ ∀ s : State, s.appCmd = .none →
    exec (.rbAvailable 2) s
      = .next (s.replied [0x00, BitVec.ofNat 8 s.ub.count, BitVec.ofNat 8 (s.ub.count / 256)])
    ∧ exec (.rbAvailableForWrite 2) s
      = .next (s.replied [0x00, BitVec.ofNat 8 (s.ub.cap - s.ub.count),
          BitVec.ofNat 8 ((s.ub.cap - s.ub.count) / 256)])
    ∧ exec (.rbIsFull 2) s = .next (s.replied [0x00, if s.ub.count = s.ub.cap then 1 else 0])
    ∧ exec (.rbIsEmpty 2) s = .next (s.replied [0x00, if s.ub.count = 0 then 1 else 0])

/-- `RB_RESIZE` on UB (R193): empty, with the new capacity; the storage bytes are not constrained. -/
def Obligations.RbResizeResult : Prop :=
  (∀ rb b0 b1, decodeOn .command [0x29, rb, b0, b1] = .accepted (.rbResize rb (le16 b0 b1)))
  ∧ ∀ (s : State) (n : Half), s.appCmd = .none →
    ∃ u : RingBuffer, exec (.rbResize 2 n) s = .next (State.replied { s with ub := u } [0x00])
      ∧ u.cap = n.toNat ∧ u.head = 0 ∧ u.tail = 0 ∧ u.count = 0 ∧ u.content = []
      ∧ (u.isEmpty = true ∧ (u.isFull = true ↔ n = 0))

/-- FIFO order and space accounting (R194): over any operations, the content there was and the bytes accepted are
the bytes returned and the content left, in order, none repeated and none skipped; the two counts add up to
the capacity; a short write leaves the buffer full. -/
def Obligations.RingIsFifo : Prop :=
  ∀ (rb : RingBuffer) (cmds : List RingCmd), rb.Wf →
    let t := ringRun rb cmds
    rb.content ++ t.accepted = t.returned ++ t.rb.content
    ∧ t.rb.count + t.rb.space = t.rb.cap ∧ t.rb.cap = rb.cap
    ∧ ∀ data : List Byte, t.rb.accepts data.length < data.length → (t.rb.writeArray data).isFull = true

/-- The bulk forms are the single forms one after another (R195). -/
def Obligations.RingBulkIsSingles : Prop :=
  ∀ rb : RingBuffer, rb.Wf →
    (∀ data : List Byte,
      (ringRun rb (data.map .write)).rb = rb.writeArray data
      ∧ (ringRun rb (data.map .write)).accepted = data.take (rb.accepts data.length))
    ∧ ∀ n : Nat,
      (ringRun rb (List.replicate n .read)).rb = rb.consume n
      ∧ (ringRun rb (List.replicate n .read)).returned = rb.front n

/-- The ring buffer's invariants hold after reset, after a resize and after every operation (R26). -/
def Obligations.RingInvariants : Prop :=
  RingBuffer.empty.Wf
  ∧ (∀ n : Half, (RingBuffer.resize n.toNat).Wf)
  ∧ ∀ (rb : RingBuffer) (cmds : List RingCmd), rb.Wf →
    let u := (ringRun rb cmds).rb
    u.count ≤ u.cap
    ∧ (1 ≤ u.cap → u.head < u.cap ∧ u.tail < u.cap ∧ u.tail = (u.head + u.count) % u.cap)
    ∧ (u.isFull = true ↔ u.count = u.cap) ∧ (u.isEmpty = true ↔ u.count = 0)
    ∧ u.count + u.space = u.cap
    ∧ u.Wf

/-! ### Configuration and session (43_transport_tx.md) -/

/-- `CFG_WRITE` (R210): its encoding; refused while a session is live and for a value outside its legal set, with
nothing changed; else exactly the one register takes the value. -/
def Obligations.CfgWriteResult : Prop :=
  (∀ idx v0 v1 v2 v3 v4 v5 v6 v7, decodeOn .command [0x30, idx, v0, v1, v2, v3, v4, v5, v6, v7]
    = .accepted (.cfgWrite idx (BitVec.ofNat 64 (leNat [v0, v1, v2, v3, v4, v5, v6, v7]))))
  ∧ ∀ (s : State) (idx : Byte) (val : Word64), s.appCmd = .none →
    let illegal := 10 < idx.toNat
      ∨ 2 ^ ([16, 2, 64, 2, 64, 16, 32, 8, 32, 16, 16].getD idx.toNat 0) ≤ val.toNat
      ∨ ((idx = 1 ∨ idx = 3) ∧ val = 1)
    (s.live = true ∨ illegal → exec (.cfgWrite idx val) s = .next (s.replied [0x09]))
    ∧ (s.live = false → ¬ illegal →
      ∃ c : CfgRegs, exec (.cfgWrite idx val) s = .next (State.replied { s with cfg := c } [0x00])
        ∧ c.value idx.toNat = val.toNat
        ∧ ∀ j, j ≠ idx.toNat → c.value j = s.cfg.value j)

/-- `T_BEGIN` (R211): refused while a session is live; else every session register takes the value R211 writes,
and the configuration, UB, the environment and the ports' queues are untouched. -/
def Obligations.TBeginResult : Prop :=
  decodeOn .command [0x31] = .accepted .tBegin
  ∧ ∀ s : State, s.appCmd = .none →
    (s.live = true → exec .tBegin s = .next (s.replied [0x09]))
    ∧ (s.live = false →
      ∃ t, exec .tBegin s = .next t
        ∧ (t.live = true ∧ t.appCmd = .none)
        ∧ (t.tx.txb.cap = s.cfg.txCap.toNat ∧ t.tx.txb.head = 0 ∧ t.tx.txb.tail = 0 ∧ t.tx.txb.count = 0)
        ∧ (t.rx.rxb.cap = s.cfg.rxCap.toNat ∧ t.rx.rxb.head = 0 ∧ t.rx.rxb.tail = 0 ∧ t.rx.rxb.count = 0)
        ∧ (t.tx.outSeq = 0 ∧ t.tx.arqState = .idle ∧ t.tx.sendActive = false ∧ t.tx.delayArmed = false
          ∧ t.tx.ackTimerArmed = false ∧ t.tx.retriesLeft = 0 ∧ t.tx.txFrameLen = 0)
        ∧ (t.rx.lastSeqValid = false ∧ t.rx.pendValid = false ∧ t.rx.metaValid = false)
        ∧ (t.rd.active = false ∧ t.rd.timerArmed = false ∧ t.rd.expired = false ∧ t.rd.want = 0
          ∧ t.rd.got = 0 ∧ t.rd.data = [])
        ∧ t.cfg = s.cfg ∧ t.ub = s.ub ∧ t.env = s.env ∧ t.io = (s.replied [0x00]).io)

/-- `T_END` (R212): refused with no session; else every session register and both owned ring buffers take the
"reset" values of R41, and the configuration, UB, the environment and the ports' queues are untouched. -/
def Obligations.TEndResult : Prop :=
  decodeOn .command [0x32] = .accepted .tEnd
  ∧ ∀ s : State, s.appCmd = .none →
    (s.live = false → exec .tEnd s = .next (s.replied [0x09]))
    ∧ (s.live = true →
      ∃ t, exec .tEnd s = .next t
        ∧ (t.live = false ∧ t.appCmd = .none)
        ∧ (∀ rb ∈ [t.tx.txb, t.rx.rxb], rb.cap = 0 ∧ rb.head = 0 ∧ rb.tail = 0 ∧ rb.count = 0)
        ∧ (t.tx.outSeq = 0 ∧ t.tx.arqState = .idle ∧ t.tx.sendActive = false ∧ t.tx.delayArmed = false
          ∧ t.tx.ackTimerArmed = false ∧ t.tx.retriesLeft = 0 ∧ t.tx.txFrameLen = 0)
        ∧ (t.rx.lastSeqValid = false ∧ t.rx.pendValid = false ∧ t.rx.metaValid = false)
        ∧ (t.rd.active = false ∧ t.rd.timerArmed = false ∧ t.rd.expired = false ∧ t.rd.want = 0
          ∧ t.rd.got = 0 ∧ t.rd.data = [])
        ∧ t.cfg = s.cfg ∧ t.ub = s.ub ∧ t.env = s.env ∧ t.io = (s.replied [0x00]).io)

/-- Sessions do not leak into one another (R323): `T_END`, any `CFG_WRITE`s and `T_BEGIN` from a live session reach
the same session registers as the same `CFG_WRITE`s and `T_BEGIN` from any state with no session and the same
configuration. R323 excepts unobservable bytes: that the bytes of `TXFRAME` and of the storage of `TXB` and `RXB`
are equal too rests on the model's choice that a byte nothing has written reads as 0x00 (notes/assumptions/5.md), and
that the latches are equal on the model's own latches (notes/assumptions/10.md). -/
def Obligations.SessionsDoNotLeak : Prop :=
  ∀ (s s0 : State) (ws : List (Byte × Word64)),
    s.live = true → s.appCmd = .none → s0.live = false → s0.appCmd = .none → s.cfg = s0.cfg →
    let writes := ws.map fun w => (Instr.cfgWrite w.1 w.2, false)
    ∃ t t0,
      runOps ((.tEnd, false) :: (writes ++ [(.tBegin, false)])) s = .next t
      ∧ runOps (writes ++ [(.tBegin, false)]) s0 = .next t0
      ∧ t.live = true ∧ t0.live = true ∧ t.appCmd = t0.appCmd ∧ t.cfg = t0.cfg ∧ t.tx = t0.tx ∧ t.rd = t0.rd
      ∧ t.latch = t0.latch ∧ t.rx.rxb = t0.rx.rxb
      ∧ t.rx.lastSeqValid = t0.rx.lastSeqValid ∧ t.rx.pendValid = t0.rx.pendValid
      ∧ t.rx.metaValid = t0.rx.metaValid

/-! ### Sending (43_transport_tx.md) -/

/-- `T_WRITE` that does not fill a frame (R214): with `TX_CAP = 0` the byte is not taken; else it is staged at the
tail of TXB and nothing is sent. Where `MTU = 1` (R11 allows it) every byte fills a frame, and the last clause says
nothing. -/
def Obligations.TWriteStages : Prop :=
  ∀ (s : State) (b : Byte), s.Inv → s.appCmd = .none →
    (s.live = false → exec (.tWrite b) s = .next (s.replied [0x09]))
    ∧ (s.live = true → s.tx.txb.cap = 0 → exec (.tWrite b) s = .next (s.replied [0x00, 0]))
    ∧ (s.live = true → s.tx.txb.count + 1 < s.tx.txb.cap → s.tx.txb.count + 1 < Config.mtu →
      ∃ u : RingBuffer, exec (.tWrite b) s
          = .next (State.replied { s with tx := { s.tx with txb := u } } [0x00, 1])
        ∧ s.tx.txb.Appended u [b] ∧ u.content = s.tx.txb.content ++ [b])

/-- `T_WRITE` of the byte that fills a frame (R214, R217 to R220): the bytes staged and this one leave TXB, in
order, as the payload of one frame, which stands in `TXFRAME`. Confirmed, the send is set up and the response
waits for `ARQ_DECIDE`; unconfirmed, the frame goes to the radio once and the command is answered whatever the
radio answers. -/
def Obligations.TWriteSends : Prop :=
  ∀ (s : State) (b : Byte), s.Inv → s.appCmd = .none → s.live = true → 1 ≤ s.tx.txb.cap →
    (s.tx.txb.count + 1 = s.tx.txb.cap ∨ s.tx.txb.count + 1 = Config.mtu) →
    let out := wireBytes (s.txFrameOf (s.tx.txb.content ++ [b]))
    ∃ (v u : RingBuffer) (m : Memory),
      s.tx.txb.Appended v [b] ∧ u = v.without (s.tx.txb.count + 1) ∧ u.content = []
      ∧ s.tx.txFrame.Stored m 0 out
      ∧ (s.cfg.fcfTmpl.getLsbD 5 = true →
        exec (.tWrite b) s = .next { s with
          appCmd := .write
          tx := { s.tx with txb := u, txFrame := m, txFrameLen := out.length,
                            retriesLeft := s.cfg.retryCount.toNat, sendActive := true } })
      ∧ (s.cfg.fcfTmpl.getLsbD 5 = false → s.io.txAnswer = true →
        exec (.tWrite b) s = .next (State.replied { s with
          tx := { s.tx with txb := u, txFrame := m, txFrameLen := out.length, outSeq := s.tx.outSeq + 1 }
          env := { s.env with inflight := s.env.inflight ++ [out] }
          io := { s.io with txCalls := s.io.txCalls ++ [⟨out, true⟩] } } [0x00, 1]))
      ∧ (s.cfg.fcfTmpl.getLsbD 5 = false → s.io.txAnswer = false →
        exec (.tWrite b) s = .next (State.replied (State.noted { s with
          tx := { s.tx with txb := u, txFrame := m, txFrameLen := out.length }
          io := { s.io with txCalls := s.io.txCalls ++ [⟨out, false⟩] } }
            [⟨.txFailed, [s.tx.outSeq.toNat]⟩]) [0x00, 1]))

/-- `T_FLUSH` (R215): refused with no session; with nothing staged nothing is sent; else what is staged (at most
`MTU` bytes, R213) leaves TXB as the payload of one frame, sent as `T_WRITE` sends one. -/
def Obligations.TFlushResult : Prop :=
  ∀ s : State, s.appCmd = .none → s.latch = .clear → s.tx.txFrame.wf = true →
    (s.live = false → exec .tFlush s = .next (s.replied [0x09]))
    ∧ (s.live = true → s.tx.txb.count = 0 → exec .tFlush s = .next (s.replied [0x00]))
    ∧ (s.live = true → 0 < s.tx.txb.count → s.tx.txb.count ≤ Config.mtu →
      let out := wireBytes (s.txFrameOf s.tx.txb.content)
      let u := s.tx.txb.without s.tx.txb.count
      ∃ m : Memory, s.tx.txFrame.Stored m 0 out ∧ u.content = []
        ∧ (s.cfg.fcfTmpl.getLsbD 5 = true →
          exec .tFlush s = .next { s with
            appCmd := .flush
            tx := { s.tx with txb := u, txFrame := m, txFrameLen := out.length,
                              retriesLeft := s.cfg.retryCount.toNat, sendActive := true } })
        ∧ (s.cfg.fcfTmpl.getLsbD 5 = false → s.io.txAnswer = true →
          exec .tFlush s = .next (State.replied { s with
            tx := { s.tx with txb := u, txFrame := m, txFrameLen := out.length, outSeq := s.tx.outSeq + 1 }
            env := { s.env with inflight := s.env.inflight ++ [out] }
            io := { s.io with txCalls := s.io.txCalls ++ [⟨out, true⟩] } } [0x00]))
        ∧ (s.cfg.fcfTmpl.getLsbD 5 = false → s.io.txAnswer = false →
          exec .tFlush s = .next (State.replied (State.noted { s with
            tx := { s.tx with txb := u, txFrame := m, txFrameLen := out.length }
            io := { s.io with txCalls := s.io.txCalls ++ [⟨out, false⟩] } }
              [⟨.txFailed, [s.tx.outSeq.toNat]⟩]) [0x00])))

/-- The frame the transport builds for a chunk (R216): the template with the mode fields from the address
registers, the one PAN ID twice, the configured addresses and the present `OUT_SEQ`. It fits in `TXFRAME`, the
bytes handed to the radio are its wire frame, and parsing them gives `canon` of it. That byte `i` of an address
register is byte `i` of its little-endian value is the model's reading, DEDUCED (notes/assumptions/21.md): R37 says
byte 0 is first on the wire and R111 that the value is written as a little-endian number. -/
def Obligations.TransportFrame : Prop :=
  ∀ (s : State) (chunk : List Byte), s.tx.txFrame.wf = true → chunk.length ≤ Config.mtu →
    let f := s.txFrameOf chunk
    (∀ i, i < 10 ∨ i = 12 ∨ i = 13 → f.fcf.getLsbD i = s.cfg.fcfTmpl.getLsbD i)
    ∧ destModeOf f.fcf = s.cfg.destAddrMode ∧ srcModeOf f.fcf = s.cfg.localAddrMode
    ∧ f.seq = s.tx.outSeq ∧ f.destPan = s.cfg.panId ∧ f.srcPan = s.cfg.panId ∧ f.payload = chunk
    ∧ f.dest = ⟨modeOf s.cfg.destAddrMode, (leBytes 8 s.cfg.destAddrVal.toNat).take (addrLen s.cfg.destAddrMode)⟩
    ∧ f.src = ⟨modeOf s.cfg.localAddrMode, (leBytes 8 s.cfg.localAddrVal.toNat).take (addrLen s.cfg.localAddrMode)⟩
    ∧ ∃ t out, s.makeFrame chunk = some t ∧ build f Config.frameMax = .ok out
      ∧ t = { s with tx := { s.tx with txFrame := t.tx.txFrame, txFrameLen := out.length } }
      ∧ s.tx.txFrame.Stored t.tx.txFrame 0 out ∧ t.tx.frameBytes = out
      ∧ out.length = 2 + hdrLen f.fcf + chunk.length ∧ out.length ≤ Config.frameMax ∧ Config.frameMax ≤ 255
      ∧ parse out = some (canon f)

/-- `DRAIN` (R217): the oldest `min(TXB.count, MTU)` bytes leave TXB and become the chunk of the send. That the
request and the chunk pass through latches is the model's form (notes/assumptions/10.md). -/
def Obligations.DrainResult : Prop :=
  decodeOn .internal [0x56] = .accepted .drain
  ∧ ∀ s : State, s.latch.drainReq = true → 1 ≤ s.tx.txb.count →
    let n := min s.tx.txb.count Config.mtu
    exec .drain s = .next { s with
        tx := { s.tx with txb := s.tx.txb.without n }
        latch := { s.latch with drainReq := false, chunk := some (s.tx.txb.content.take n) } }
      ∧ s.tx.txb.content = s.tx.txb.content.take n ++ (s.tx.txb.without n).content
      ∧ 1 ≤ (s.tx.txb.content.take n).length ∧ (s.tx.txb.content.take n).length ≤ Config.mtu

/-- `SEND_NOCONF` and `SEND_CONF` (R219, R220) on a chunk whose frame fits in `TXFRAME`, as every chunk of at most
`MTU` bytes does (R216): the frame is built; unconfirmed, it goes to the radio once and the sequence number
advances exactly when the radio takes it; confirmed, the budget is loaded and the send is active. A chunk whose
frame does not fit stops by name (notes/assumptions/12.md); no such chunk is ever drained. That the chunk stands
in a latch is the model's form (notes/assumptions/10.md). -/
def Obligations.SendSetUps : Prop :=
  ∀ (s : State) (chunk : List Byte), s.latch.chunk = some chunk → s.tx.txFrame.wf = true →
    let out := wireBytes (s.txFrameOf chunk)
    (2 + hdrLen (s.txFrameOf chunk).fcf + chunk.length ≤ Config.frameMax →
      ∃ m : Memory, s.tx.txFrame.Stored m 0 out
        ∧ (s.io.txAnswer = true → exec .sendNoconf s = .next { s with
            tx := { s.tx with txFrame := m, txFrameLen := out.length, outSeq := s.tx.outSeq + 1 }
            latch := { s.latch with chunk := none }
            env := { s.env with inflight := s.env.inflight ++ [out] }
            io := { s.io with txCalls := s.io.txCalls ++ [⟨out, true⟩] } })
        ∧ (s.io.txAnswer = false → exec .sendNoconf s = .next (State.noted { s with
            tx := { s.tx with txFrame := m, txFrameLen := out.length }
            latch := { s.latch with chunk := none }
            io := { s.io with txCalls := s.io.txCalls ++ [⟨out, false⟩] } }
              [⟨.txFailed, [s.tx.outSeq.toNat]⟩]))
        ∧ (s.tx.arqState = .idle → s.tx.sendActive = false → exec .sendConf s = .next { s with
            tx := { s.tx with txFrame := m, txFrameLen := out.length,
                              retriesLeft := s.cfg.retryCount.toNat, sendActive := true }
            latch := { s.latch with chunk := none } }))
    ∧ (Config.frameMax < 2 + hdrLen (s.txFrameOf chunk).fcf + chunk.length →
      exec .sendNoconf s = .fault .frameOverflow
      ∧ (s.tx.arqState = .idle → s.tx.sendActive = false → exec .sendConf s = .fault .frameOverflow))

/-- `ARQ_ISSUE` (R223): one call of `transmit` with the frame in `TXFRAME`; taken, the state is `Waiting` with the
acknowledgment timer armed for `ACK_WAIT + ACK_MARGIN`; refused, the attempt has failed at once. -/
def Obligations.ArqIssueResult : Prop :=
  decodeOn .internal [0x52] = .accepted .arqIssue
  ∧ ∀ s : State, s.live = true → s.tx.sendActive = true → s.tx.arqState = .idle → s.tx.delayArmed = false →
    let out := s.tx.txFrame.readBytes 0 s.tx.txFrameLen
    (s.io.txAnswer = true → exec .arqIssue s = .next { s with
        tx := { s.tx with arqState := .waiting, ackTimerArmed := true }
        env := { s.env with inflight := s.env.inflight ++ [out],
                            ackDuration := s.cfg.ackWait.toNat + Config.ackMargin }
        io := { s.io with txCalls := s.io.txCalls ++ [⟨out, true⟩] } })
    ∧ (s.io.txAnswer = false → exec .arqIssue s = .next (State.noted { s with
        tx := { s.tx with arqState := .failed }
        io := { s.io with txCalls := s.io.txCalls ++ [⟨out, false⟩] } } [⟨.txFailed, [s.tx.outSeq.toNat]⟩]))

/-- `EV_TX_DONE` and `EV_TX_FAILED` (R224, R225): while a live session waits they decide the attempt and disarm the
timer; at any other time they change no register (R289). In every case at most one attempt leaves the radio
agent's `INFLIGHT`; which one is not constrained (R304, notes/assumptions/8.md). -/
def Obligations.TransmitReports : Prop :=
  decodeOn .event [0x40] = .accepted .evTxDone
  ∧ (∀ e0 e1 e2 e3, decodeOn .event [0x41, e0, e1, e2, e3]
      = .accepted (.evTxFailed (BitVec.ofNat 32 (leNat [e0, e1, e2, e3]))))
  ∧ ∀ (s : State) (e : Word32), ∃ (k n : Nat),
    let r : State := { s with env := { s.env with inflight := s.env.inflight.eraseIdx k }, free := n }
    (s.live = true ∧ s.tx.arqState = .waiting →
      exec .evTxDone s = .next { r with tx := { s.tx with arqState := .confirmed, ackTimerArmed := false } }
      ∧ exec (.evTxFailed e) s
        = .next (State.noted { r with tx := { s.tx with arqState := .failed, ackTimerArmed := false } }
          [⟨.txFailed, [e.toNat]⟩]))
    ∧ (¬ (s.live = true ∧ s.tx.arqState = .waiting) →
      exec .evTxDone s = .next r ∧ exec (.evTxFailed e) s = .next r)

/-- The three timer events (R227, R228, R267), each while its timer is armed. -/
def Obligations.TimerEvents : Prop :=
  decodeOn .event [0x42] = .accepted .evAckTimeout
  ∧ decodeOn .event [0x43] = .accepted .evRetryDelayDone
  ∧ decodeOn .event [0x44] = .accepted .evReadTimeout
  ∧ ∀ s : State,
    (s.tx.ackTimerArmed = true → exec .evAckTimeout s
      = .next (State.noted { s with tx := { s.tx with arqState := .failed, ackTimerArmed := false } }
        [⟨.ackTimeout, [s.tx.outSeq.toNat]⟩]))
    ∧ (s.tx.delayArmed = true → exec .evRetryDelayDone s
      = .next { s with tx := { s.tx with delayArmed := false } })
    ∧ (s.rd.timerArmed = true → exec .evReadTimeout s
      = .next { s with rd := { s.rd with expired := true, timerArmed := false } })

/-- `ARQ_DECIDE` (R229): a confirmed send advances the number, ends and answers the command; a failed attempt uses
one of the budget, saturating, and either ends the send the same way with the frame dropped, or arms the
inter-attempt delay. -/
def Obligations.ArqDecideResult : Prop :=
  decodeOn .internal [0x53] = .accepted .arqDecide
  ∧ ∀ s : State, s.tx.sendActive = true →
    let response : List Byte := if s.appCmd = .write then [0x00, 1] else [0x00]
    (s.tx.arqState = .confirmed → exec .arqDecide s = .next (State.replied { s with
        appCmd := .none
        tx := { s.tx with outSeq := s.tx.outSeq + 1, arqState := .idle, sendActive := false } } response))
    ∧ (s.tx.arqState = .failed → s.tx.retriesLeft ≤ 1 →
      exec .arqDecide s = .next (State.replied (State.noted { s with
        appCmd := .none
        tx := { s.tx with retriesLeft := 0, outSeq := s.tx.outSeq + 1, arqState := .idle, sendActive := false } }
          [⟨.dropped, [s.tx.outSeq.toNat]⟩]) response))
    ∧ (s.tx.arqState = .failed → 2 ≤ s.tx.retriesLeft →
      exec .arqDecide s = .next { s with
        tx := { s.tx with retriesLeft := s.tx.retriesLeft - 1, arqState := .idle, delayArmed := true }
        env := { s.env with delayDuration := s.cfg.retryDelay.toNat } })

/-- A step whose enabling condition (R341) does not hold does nothing: its agent's turn passes. R341 says such a
step does not happen; that a turn given to it changes nothing is the model's form (notes/assumptions/7.md), and
that the message of such a timer event is lost is its choice (notes/assumptions/22.md). -/
def Obligations.DisabledStepsDoNothing : Prop :=
  ∀ s : State,
    (¬ (s.live = true ∧ s.tx.sendActive = true ∧ s.tx.arqState = .idle ∧ s.tx.delayArmed = false) →
      exec .arqIssue s = .next s)
    ∧ (¬ (s.tx.sendActive = true ∧ (s.tx.arqState = .confirmed ∨ s.tx.arqState = .failed)) →
      exec .arqDecide s = .next s)
    ∧ (s.rd.active = false → exec .rdStep s = .next s)
    ∧ (s.tx.ackTimerArmed = false → exec .evAckTimeout s = .next s)
    ∧ (s.tx.delayArmed = false → exec .evRetryDelayDone s = .next s)
    ∧ (s.rd.timerArmed = false → exec .evReadTimeout s = .next s)
    ∧ (s.latch.chunk = none → exec .sendNoconf s = .next s ∧ exec .sendConf s = .next s)
    ∧ (s.latch.drainReq = false → exec .drain s = .next s)
    ∧ (s.latch.rxFrame = none → exec .seqValidate s = .next s)
    ∧ ∀ i : Instr, i.port = .command → s.appCmd ≠ .none → exec i s = .next s

/-- While an attempt is waited for, only its report or its timeout ends the wait (R226), or the reset input. -/
def Obligations.OnlyReportsEndTheWait : Prop :=
  ∀ s t : State, s.Inv → s.tx.arqState = .waiting → step s = .next t → t.tx.arqState ≠ .waiting →
    ∃ (turn : Turn) (rest : List Turn), s.io.schedule = turn :: rest
      ∧ (turn.slot = .reset
        ∨ turn.slot = .event ∧ ∃ m ms i, s.io.evPort = m :: ms ∧ decodeOn .event m = .accepted i
          ∧ (i = .evTxDone ∨ (∃ e, i = .evTxFailed e) ∨ i = .evAckTimeout))

/-- When `OUT_SEQ` changes (R231): by one at the `ARQ_DECIDE` that ends a send, by one at an unconfirmed send that
the radio took, to 0 at session start and teardown, and at no other time. -/
def Obligations.OutSeqAdvances : Prop :=
  ∀ (i : Instr) (s t : State), s.Inv → exec i s = .next t →
    t.tx.outSeq = s.tx.outSeq
    ∨ (t.tx.outSeq = s.tx.outSeq + 1
      ∧ (i = .arqDecide ∧ s.tx.sendActive = true ∧ t.tx.sendActive = false
        ∨ ((∃ b, i = .tWrite b) ∨ i = .tFlush) ∧ s.cfg.fcfTmpl.getLsbD 5 = false
          ∧ ∃ out, t.io.txCalls = s.io.txCalls ++ [⟨out, true⟩]))
    ∨ ((i = .tBegin ∨ i = .tEnd) ∧ t.tx.outSeq = 0)

/-- Retry exhaustion (R230, R233): from a flush with confirmation while no send is active, if every attempt fails,
by refusal, report or timeout, the send makes exactly `max(1, RETRY_COUNT)` calls of `transmit`, all with the same
bytes, advances `OUT_SEQ` exactly once and answers the command; after fewer failures it is still active. It is said
of a send that `T_FLUSH` begins; one that `T_WRITE` begins is left out here (`Obligations.TWriteSends` says that it
sets up the same registers). -/
def Obligations.RetriesExhaust : Prop :=
  ∀ (s : State) (ks : List AttemptFailure), s.live = true → s.appCmd = .none → s.tx.sendActive = false →
    s.tx.arqState = .idle → s.tx.delayArmed = false → s.tx.txFrame.wf = true →
    0 < s.tx.txb.count → s.tx.txb.count ≤ Config.mtu →
    s.cfg.fcfTmpl.getLsbD 5 = true → ks ≠ [] → ks.length ≤ max 1 s.cfg.retryCount.toNat →
    let out := wireBytes (s.txFrameOf s.tx.txb.content)
    ∃ t, runOps ((.tFlush, false) :: failingSend ks) s = .next t
      ∧ t.io.txCalls = s.io.txCalls ++ ks.map (fun k => ⟨out, decide (k ≠ .refusedByRadio)⟩)
      ∧ t.tx.arqState = .idle
      ∧ (ks.length = max 1 s.cfg.retryCount.toNat →
        t.tx.outSeq = s.tx.outSeq + 1 ∧ t.tx.sendActive = false ∧ t.appCmd = .none
        ∧ t.io.cmdOut = s.io.cmdOut ++ [[0x00]])
      ∧ (ks.length < max 1 s.cfg.retryCount.toNat →
        t.tx.outSeq = s.tx.outSeq ∧ t.tx.sendActive = true ∧ t.appCmd = .flush ∧ t.io.cmdOut = s.io.cmdOut)

/-! ### Receiving (44_transport_rx.md) -/

/-- `T_RECEIVE` with no frame pending (R251 to R258, R260): the oldest inbound frame is pulled, parsed, validated
and delivered whole, or held whole; each outcome with its status and progress byte, and nothing else changes. -/
def Obligations.TReceiveResult : Prop :=
  ∀ s : State, s.Inv → s.appCmd = .none → s.live = true → s.rx.pendValid = false →
    (s.env.inq = [] → exec .tReceive s
      = .next (State.replied { s with io := { s.io with rxCalls := s.io.rxCalls + 1 } } [0x0B, 0]))
    ∧ ∀ (fr : InFrame) (rest : List InFrame), s.env.inq = fr :: rest →
      let pulled : State := { s with
        env := { s.env with inq := rest }, io := { s.io with rxCalls := s.io.rxCalls + 1 } }
      (parse fr.raw = none → exec .tReceive s = .next ((pulled.noted [⟨.malformed, []⟩]).replied [0x01, 0]))
      ∧ ∀ f : Frame, parse fr.raw = some f →
        let latched : RxRegs :=
          { s.rx with rssi := fr.rssi, lqi := fr.lqi, channel := fr.channel, metaValid := true }
        let numbered := f.fcf.getLsbD 8 = false
        let recorded : RxRegs :=
          if f.fcf.getLsbD 8 then latched else { latched with lastSeqValid := true, lastSeq := f.seq }
        let gap : List Diag :=
          if f.fcf.getLsbD 8 = false ∧ s.rx.lastSeqValid = true ∧ f.seq ≠ s.rx.lastSeq + 1
          then [⟨.seqGap, [s.rx.lastSeq.toNat, f.seq.toNat]⟩] else []
        (numbered ∧ s.rx.lastSeqValid = true ∧ f.seq = s.rx.lastSeq → exec .tReceive s
          = .next ((State.noted { pulled with rx := latched } [⟨.duplicate, [f.seq.toNat]⟩]).replied [0x05, 0]))
        ∧ (¬ (numbered ∧ s.rx.lastSeqValid = true ∧ f.seq = s.rx.lastSeq) →
          (f.payload.length ≤ s.rx.rxb.cap - s.rx.rxb.count →
            ∃ u : RingBuffer, s.rx.rxb.Appended u f.payload ∧ u.content = s.rx.rxb.content ++ f.payload
              ∧ exec .tReceive s
                = .next ((State.noted { pulled with rx := { recorded with rxb := u } } gap).replied [0x00, 1]))
          ∧ (s.rx.rxb.cap - s.rx.rxb.count < f.payload.length →
            ∃ m : Memory, s.rx.pendBuf.Stored m 0 f.payload
              ∧ exec .tReceive s = .next ((State.noted { pulled with
                  rx := { recorded with pendBuf := m, pendLen := f.payload.length, pendOff := 0,
                                        pendValid := true } }
                (gap ++ [⟨.backpressure, [f.payload.length, s.rx.rxb.cap - s.rx.rxb.count]⟩])).replied
                  [0x04, 0])))

/-- `T_RECEIVE` with a frame pending (R259), and with no session (R251): as many of the remaining bytes as fit are
written, none is pulled; the pending state ends when all are written. -/
def Obligations.PendingFrameDrains : Prop :=
  ∀ s : State, s.Inv → s.appCmd = .none →
    (s.live = false → exec .tReceive s = .next (s.replied [0x09]))
    ∧ (s.live = true → s.rx.pendValid = true →
      let k := min (s.rx.rxb.cap - s.rx.rxb.count) (s.rx.pendLen - s.rx.pendOff)
      let bytes := (List.range k).map fun i => s.rx.pendBuf.read (s.rx.pendOff + i)
      ∃ u : RingBuffer, s.rx.rxb.Appended u bytes ∧ u.content = s.rx.rxb.content ++ bytes
        ∧ (s.rx.pendOff + k = s.rx.pendLen → exec .tReceive s
          = .next (State.replied { s with
              rx := { s.rx with rxb := u, pendOff := s.rx.pendOff + k, pendValid := false } } [0x00, 1]))
        ∧ (s.rx.pendOff + k < s.rx.pendLen → exec .tReceive s
          = .next (State.replied { s with rx := { s.rx with rxb := u, pendOff := s.rx.pendOff + k } }
            [0x04, if 0 < k then 1 else 0])))

/-- `SEQ_VALIDATE` (R254 to R257) on the frame handed to it: what it accepts, records and notes. That the frame and
the verdict pass through latches is the model's form (notes/assumptions/10.md). -/
def Obligations.SeqValidateResult : Prop :=
  decodeOn .internal [0x54] = .accepted .seqValidate
  ∧ ∀ (s : State) (f : Frame), s.latch.rxFrame = some f →
    let gone (v : Verdict) : State := { s with latch := { s.latch with rxFrame := none, verdict := some v } }
    let taken : State := { gone .accept with rx := { s.rx with lastSeqValid := true, lastSeq := f.seq } }
    (f.fcf.getLsbD 8 = true → exec .seqValidate s = .next (gone .accept))
    ∧ (f.fcf.getLsbD 8 = false → s.rx.lastSeqValid = false → exec .seqValidate s = .next taken)
    ∧ (f.fcf.getLsbD 8 = false → s.rx.lastSeqValid = true →
      (f.seq = s.rx.lastSeq →
        exec .seqValidate s = .next ((gone .duplicate).noted [⟨.duplicate, [f.seq.toNat]⟩]))
      ∧ (f.seq = s.rx.lastSeq + 1 → exec .seqValidate s = .next taken)
      ∧ (f.seq ≠ s.rx.lastSeq → f.seq ≠ s.rx.lastSeq + 1 →
        exec .seqValidate s = .next (taken.noted [⟨.seqGap, [s.rx.lastSeq.toNat, f.seq.toNat]⟩])))

/-- No accepted byte is lost or doubled (R270): the receive step appends exactly the accepted payload to the bytes
on their way, and each turn of a read moves bytes only from there to the data collected, in order. -/
def Obligations.ReceiveKeepsEveryByte : Prop :=
  ∀ s : State, s.Inv → s.live = true →
    (s.appCmd = .none → ∃ t, exec .tReceive s = .next t
      ∧ t.rx.backlog = s.rx.backlog ++ s.incoming ∧ t.rd.data = s.rd.data)
    ∧ (∀ (n : Half) (timeout : Word32), s.appCmd = .none → ∃ t, exec (.tReadBytes n timeout) s = .next t
      ∧ t.rd.data ++ t.rx.backlog = s.rx.backlog)
    ∧ (s.rd.active = true → s.rd.expired = false → ∃ t, exec .rdStep s = .next t
      ∧ t.rd.data ++ t.rx.backlog = s.rd.data ++ s.rx.backlog ++ s.incoming)
    ∧ (s.rd.active = true → s.rd.expired = true → ∃ t, exec .rdStep s = .next t
      ∧ t.rd.data = s.rd.data ∧ t.rx.backlog = s.rx.backlog)

/-- `T_READ_BYTES` and `T_READ` (R264, R265): what RXB holds is taken; with enough there the command is answered at
once, else the read is active with its timer armed and the command port busy. `T_READ` is `T_READ_BYTES` of one
byte. -/
def Obligations.ReadStarts : Prop :=
  decodeOn .command [0x36] = .accepted .tRead
  ∧ (∀ n0 n1 t0 t1 t2 t3, decodeOn .command [0x37, n0, n1, t0, t1, t2, t3]
      = .accepted (.tReadBytes (le16 n0 n1) (BitVec.ofNat 32 (leNat [t0, t1, t2, t3]))))
  ∧ ∀ (s : State) (n : Half) (timeout : Word32), s.appCmd = .none →
    ∀ i, i = Instr.tReadBytes n timeout ∨ i = .tRead ∧ n = 1 ∧ timeout = Config.readTimeout →
      (s.live = false → exec i s = .next (s.replied [0x09]))
      ∧ (s.live = true → n.toNat ≤ s.rx.rxb.count → exec i s = .next (State.replied { s with
          rx := { s.rx with rxb := s.rx.rxb.without n.toNat }
          rd := { s.rd with want := n.toNat, expired := false, data := s.rx.rxb.content.take n.toNat,
                            got := n.toNat } }
          (0x00 :: BitVec.ofNat 8 n.toNat :: BitVec.ofNat 8 (n.toNat / 256) :: s.rx.rxb.content.take n.toNat)))
      ∧ (s.live = true → s.rx.rxb.count < n.toNat → exec i s = .next { s with
          appCmd := .read
          rx := { s.rx with rxb := s.rx.rxb.without s.rx.rxb.count }
          rd := { s.rd with active := true, want := n.toNat, expired := false, data := s.rx.rxb.content,
                            got := s.rx.rxb.count, timerArmed := true }
          env := { s.env with readDuration := timeout.toNat } })

/-- `RD_STEP` (R266): after the timeout the read ends with what was collected; else a receive step runs, what RXB
then holds is collected up to the count wanted, and the read ends when it is reached. The receive step is the
one `T_RECEIVE` runs on the same registers. -/
def Obligations.RdStepResult : Prop :=
  decodeOn .internal [0x55] = .accepted .rdStep
  ∧ ∀ s : State, s.rd.active = true →
    let response (d : List Byte) : List Byte :=
      0x00 :: BitVec.ofNat 8 d.length :: BitVec.ofNat 8 (d.length / 256) :: d
    let r := s.receiveStep.state
    let k := min (s.rd.want - s.rd.got) r.rx.rxb.count
    let data := s.rd.data ++ r.rx.rxb.content.take k
    (∃ st p, exec .tReceive { s with live := true, appCmd := .none }
      = .next (State.replied { r with live := true, appCmd := .none } [st, p]))
    ∧ (s.rd.expired = true → exec .rdStep s = .next (State.replied { s with
        appCmd := .none
        rd := { s.rd with active := false, timerArmed := false, expired := false } } (response s.rd.data)))
    ∧ (s.rd.expired = false → s.rd.got + k = s.rd.want → exec .rdStep s = .next (State.replied { r with
        appCmd := .none
        rx := { r.rx with rxb := r.rx.rxb.without k }
        rd := { s.rd with data := data, got := s.rd.got + k, active := false, timerArmed := false,
                          expired := false } } (response data)))
    ∧ (s.rd.expired = false → s.rd.got + k ≠ s.rd.want → exec .rdStep s = .next { r with
        rx := { r.rx with rxb := r.rx.rxb.without k }
        rd := { s.rd with data := data, got := s.rd.got + k } })

/-- `T_AVAILABLE`, `T_META` and `EV_RX_ENQUEUE` (R268, R269, R263): the two queries change nothing, and a frame
reaching the radio's queue changes no register. -/
def Obligations.ReceiveQueriesAndQueue : Prop :=
  decodeOn .command [0x38] = .accepted .tAvailable
  ∧ decodeOn .command [0x39] = .accepted .tMeta
  ∧ (∀ (s : State) (raw : List Byte) (rssi lqi channel : Byte),
    exec (.evRxEnqueue raw rssi lqi channel) s
      = .next { s with env := { s.env with inq := s.env.inq ++ [⟨raw, rssi, lqi, channel⟩] } })
  ∧ ∀ s : State, s.appCmd = .none →
    (s.live = false → exec .tAvailable s = .next (s.replied [0x09]) ∧ exec .tMeta s = .next (s.replied [0x09]))
    ∧ (s.live = true →
      exec .tAvailable s
        = .next (s.replied [0x00, BitVec.ofNat 8 s.rx.rxb.count, BitVec.ofNat 8 (s.rx.rxb.count / 256)])
      ∧ (s.rx.metaValid = false → exec .tMeta s = .next (s.replied [0x00, 0, 0, 0, 0]))
      ∧ (s.rx.metaValid = true →
        exec .tMeta s = .next (s.replied [0x00, 1, s.rx.rssi, s.rx.lqi, s.rx.channel])))

/-! ### Rules over all operations -/

/-- The two directions are independent (R73): an operation of the receive path neither reads nor writes a
register or buffer of the transmit path, and the other way round; `T_BEGIN` and `T_END` are in neither. -/
def Obligations.DirectionsAreIndependent : Prop :=
  (∀ (i : Instr) (s : State) (x : TxRegs), receiveOp i = true →
    exec i { s with tx := x } = thenNext (exec i s) fun t => { t with tx := x })
  ∧ ∀ (i : Instr) (s : State) (x : RxRegs), transmitOp i = true →
    exec i { s with rx := x } = thenNext (exec i s) fun t => { t with rx := x }

/-- Which commands look at the session (R346): the value-type, codec and `RB_` commands read and write no state but
`UB`, whatever the rest of the state is; the session commands are refused in the other state of `LIVE`. -/
def Obligations.LeafCommandsIgnoreTheSession : Prop :=
  (∀ (i : Instr) (s a : State), leafOp i = true →
    exec i { a with appCmd := s.appCmd, ub := s.ub, io := s.io }
      = thenNext (exec i s) fun t => { a with appCmd := t.appCmd, ub := t.ub, io := t.io })
  ∧ (∀ (s : State) (b : Byte) (n : Half) (timeout : Word32), s.appCmd = .none → s.live = false →
    ∀ i ∈ [Instr.tWrite b, .tFlush, .tReceive, .tRead, .tReadBytes n timeout, .tAvailable, .tMeta, .tEnd],
      exec i s = .next (s.replied [0x09]))
  ∧ ∀ (s : State) (idx : Byte) (val : Word64), s.appCmd = .none → s.live = true →
    ∀ i ∈ [Instr.cfgWrite idx val, .tBegin], exec i s = .next (s.replied [0x09])

/-- A command that is answered with an error changes no register and no buffer, sends no results and leaves the
port free (R292); the receive step, whose outcomes R292 excepts, stands apart. -/
def Obligations.ErrorsChangeNothing : Prop :=
  ∀ (i : Instr) (s t : State) (c : Byte) (r : List Byte), i.port = .command → i ≠ .tReceive →
    exec i s = .next t → t.io.cmdOut = s.io.cmdOut ++ [c :: r] → c ≠ 0x00 →
    t = s.replied [c] ∧ r = [] ∧ t.appCmd = .none ∧ (c = 0x01 ∨ c = 0x08 ∨ c = 0x09 ∨ c = 0x0A)

/-- The opcode table's layout row: its word decodes on the wire and nowhere else, and it stops by name. R95 and R96
give the layout only; the table calls the row "wire field layout, not an operation". That it has a port of its own,
decodes only there and is refused by name is the model's, DEDUCED (notes/assumptions/13.md). -/
def Obligations.FcfWordStops : Prop :=
  (∀ b0 b1, decodeOn .wire [b0, b1] = .accepted (.fcfWord (le16 b0 b1)))
  ∧ (∀ m w, decodeOn .command m ≠ .accepted (.fcfWord w) ∧ decodeOn .event m ≠ .accepted (.fcfWord w)
      ∧ decodeOn .internal m ≠ .accepted (.fcfWord w))
  ∧ ∀ (w : Half) (s : State), exec (.fcfWord w) s = .refused .notAnOperation
end

