-- ==== Sys2Proof/Laws/Bytes.lean ====
section
/-! SUPPORT. The laws of the byte-order helpers: taking a number apart into little-endian bytes and putting it
together again, and taking a field off the front of a byte sequence. -/

namespace Sys2Proof

@[simp] theorem le16_lo8_hi8 (w : Half) : le16 (lo8 w) (hi8 w) = w := by
  apply BitVec.eq_of_toNat_eq
  have := w.isLt
  simp only [le16, lo8, hi8, BitVec.toNat_ofNat]
  omega

@[simp] theorem lo8_le16 (b0 b1 : Byte) : lo8 (le16 b0 b1) = b0 := by
  apply BitVec.eq_of_toNat_eq
  have := b0.isLt
  have := b1.isLt
  simp only [le16, lo8, BitVec.toNat_ofNat]
  omega

@[simp] theorem hi8_le16 (b0 b1 : Byte) : hi8 (le16 b0 b1) = b1 := by
  apply BitVec.eq_of_toNat_eq
  have := b0.isLt
  have := b1.isLt
  simp only [le16, hi8, BitVec.toNat_ofNat]
  omega

@[simp] theorem halfBytes_le16 (b0 b1 : Byte) : halfBytes (le16 b0 b1) = [b0, b1] := by simp [halfBytes]

@[simp] theorem length_halfBytes (w : Half) : (halfBytes w).length = 2 := rfl

theorem toNat_le16 (b0 b1 : Byte) : (le16 b0 b1).toNat = b0.toNat + 256 * b1.toNat := by
  have := b0.isLt
  have := b1.isLt
  simp only [le16, BitVec.toNat_ofNat]
  omega

@[simp] theorem length_leBytes (k v : Nat) : (leBytes k v).length = k := by
  induction k generalizing v with
  | zero => rfl
  | succ k ih => simp [leBytes, ih]

/-- The bytes of a number, put together again. -/
theorem leNat_leBytes (k v : Nat) : leNat (leBytes k v) = v % 256 ^ k := by
  induction k generalizing v with
  | zero => simp [leBytes, leNat, Nat.mod_one]
  | succ k ih =>
    simp only [leBytes, leNat, ih, BitVec.toNat_ofNat]
    rw [show (2 : Nat) ^ 8 = 256 by decide, Nat.pow_succ, Nat.mul_comm, Nat.mul_comm (256 ^ k) 256,
      Nat.mod_mul, Nat.mul_comm 256 (v / 256 % 256 ^ k)]

/-- A number below its range is what its bytes put together give. -/
theorem leNat_leBytes_of_lt (k v : Nat) (h : v < 256 ^ k) : leNat (leBytes k v) = v := by
  rw [leNat_leBytes, Nat.mod_eq_of_lt h]

/-- A byte sequence is the bytes of the number it stands for. -/
theorem leBytes_leNat (bs : List Byte) : leBytes bs.length (leNat bs) = bs := by
  induction bs with
  | nil => rfl
  | cons b bs ih =>
    have hb := b.isLt
    have h1 : BitVec.ofNat 8 (b.toNat + 256 * leNat bs) = b := by
      apply BitVec.eq_of_toNat_eq
      simp only [BitVec.toNat_ofNat]
      omega
    have h2 : (b.toNat + 256 * leNat bs) / 256 = leNat bs := by omega
    simp only [List.length_cons, leNat, leBytes, h1, h2, ih]

theorem leNat_lt (bs : List Byte) : leNat bs < 256 ^ bs.length := by
  induction bs with
  | nil => simp [leNat]
  | cons b bs ih =>
    have hb := b.isLt
    simp only [leNat, List.length_cons, Nat.pow_succ]
    omega

/-- The two bytes of a count are those of a `u16`. -/
theorem leBytes_two (n : Nat) : leBytes 2 n = [BitVec.ofNat 8 n, BitVec.ofNat 8 (n / 256)] := rfl

theorem toNat_le16_leBytes (n : Nat) (h : n < 65536) :
    (le16 (BitVec.ofNat 8 n) (BitVec.ofNat 8 (n / 256))).toNat = n := by
  rw [toNat_le16]
  simp only [BitVec.toNat_ofNat]
  omega

@[simp] theorem splitBytes_append (a b : List Byte) : splitBytes a.length (a ++ b) = some (a, b) := by
  unfold splitBytes
  rw [if_neg (by simp)]
  simp

theorem splitBytes_append_of_length (k : Nat) (a b : List Byte) (h : a.length = k) :
    splitBytes k (a ++ b) = some (a, b) := by
  subst h
  exact splitBytes_append a b

/-- What taking a field off does: there are enough bytes, and the sequence is the field and the rest. -/
theorem splitBytes_eq_some (k : Nat) (bs a r : List Byte) (h : splitBytes k bs = some (a, r)) :
    bs = a ++ r ∧ a.length = k := by
  unfold splitBytes at h
  split at h
  · cases h
  · cases h
    refine ⟨(List.take_append_drop k bs).symm, ?_⟩
    rw [List.length_take]
    omega

theorem splitBytes_eq_none (k : Nat) (bs : List Byte) : splitBytes k bs = none ↔ bs.length < k := by
  unfold splitBytes
  split <;> simp_all

end Sys2Proof
end

