-- ==== Sys2Proof/Laws/Codec.lean ====
section
/-! SUPPORT. The laws of the codec's helpers: FCF fields, address lengths, header lengths, and what each read of
`PARSE` does. -/

namespace Sys2Proof.Machine

/-! ### Bit fields and modes -/

theorem toNat_field (w : Half) (lo n : Nat) : (field w lo n).toNat = w.toNat / 2 ^ lo % 2 ^ n := by
  simp [field, BitVec.toNat_ofNat]

theorem addrField_cases (m : BitVec 2) :
    (m = 0 ∧ addrField m = .none) ∨ (m = 1 ∧ addrField m = .reserved) ∨ (m = 2 ∧ addrField m = .short)
      ∨ (m = 3 ∧ addrField m = .extended) := by
  revert m
  decide

theorem addrLen_le (m : BitVec 2) : addrLen m ≤ 8 := by
  revert m
  decide

theorem len_modeOf (m : BitVec 2) : (modeOf m).len = addrLen m := by
  revert m
  decide

theorem present_iff (m : BitVec 2) : present m = true ↔ m = 2 ∨ m = 3 := by
  revert m
  decide

theorem not_present_len (m : BitVec 2) (h : present m = false) : addrLen m = 0 ∧ modeOf m = .none := by
  revert m
  decide

theorem seqSuppressed_eq (w : Half) : seqSuppressed w = decide (w.toNat / 256 % 2 = 1) := by
  unfold seqSuppressed
  rw [BitVec.getLsbD, Nat.testBit_eq_decide_div_mod_eq]

theorem panCompressed_eq (w : Half) : panCompressed w = decide (w.toNat / 64 % 2 = 1) := by
  unfold panCompressed
  rw [BitVec.getLsbD, Nat.testBit_eq_decide_div_mod_eq]

/-! ### Header lengths (R151) -/

theorem hdrLen_ge (w : Half) : 2 ≤ hdrLen w := by
  unfold hdrLen
  omega

theorem hdrLen_le (w : Half) : hdrLen w ≤ Config.hdrMax := by
  have h1 := addrLen_le (destModeOf w)
  have h2 := addrLen_le (srcModeOf w)
  unfold hdrLen Config.hdrMax
  split <;> split <;> split <;> omega

theorem mtu_pos : 1 ≤ Config.mtu := by
  unfold Config.mtu
  omega

theorem mtu_le : Config.mtu ≤ 230 := by
  unfold Config.mtu
  omega

theorem frameMax_eq : Config.frameMax = Config.mtu + 25 := rfl

theorem frameMax_le : Config.frameMax ≤ 255 := by
  have := mtu_le
  rw [frameMax_eq]
  omega

/-- The header bytes of a frame whose addresses have the lengths the FCF calls for (R162). -/
theorem length_headerBytes (f : Frame) (hm : f.modesAgree = true) (hw : f.Wf) :
    (headerBytes f).length = hdrLen f.fcf := by
  simp only [Frame.modesAgree, Bool.and_eq_true, decide_eq_true_eq] at hm
  have hd : f.dest.bytes.length = addrLen (destModeOf f.fcf) := by rw [hw.1, hm.1, len_modeOf]
  have hs : f.src.bytes.length = addrLen (srcModeOf f.fcf) := by rw [hw.2, hm.2, len_modeOf]
  unfold headerBytes hdrLen
  simp only [List.length_append, length_halfBytes, hd, hs]
  split <;> split <;> split <;> simp_all

/-- A wire frame has as many bytes as its length byte says (R162). -/
theorem length_wireBytes (f : Frame) (hm : f.modesAgree = true) (hw : f.Wf) :
    (wireBytes f).length = frameTotal f := by
  unfold wireBytes frameTotal
  simp only [List.length_cons, List.length_append, length_headerBytes f hm hw, List.length_nil]
  omega

/-- `BUILD` gives the wire frame exactly when the modes agree and the total fits. -/
theorem build_eq_ok (f : Frame) (cap : Nat) (out : List Byte) :
    build f cap = .ok out
      ↔ f.modesAgree = true ∧ frameTotal f ≤ 255 ∧ frameTotal f ≤ cap ∧ out = wireBytes f := by
  unfold build
  by_cases hm : f.modesAgree = true
  · by_cases ht : 255 < frameTotal f ∨ cap < frameTotal f
    · simp only [hm, Bool.not_true, Bool.false_eq_true, if_false, if_pos ht, reduceCtorEq, false_iff]
      intro h
      omega
    · simp only [hm, Bool.not_true, Bool.false_eq_true, if_false, if_neg ht, Built.ok.injEq]
      constructor
      · intro h
        exact ⟨trivial, by omega, by omega, h.symm⟩
      · intro h
        exact h.2.2.2.symm
  · simp [hm]

/-! ### The reads of `PARSE`: each takes its field off the front, and gives the value R155 names when the
field is absent -/

theorem readU8_eq_some (bs rest : List Byte) (b : Byte) (h : readU8 bs = some (b, rest)) : bs = b :: rest := by
  cases bs with
  | nil => simp [readU8] at h
  | cons x bs =>
    simp only [readU8, Option.some.injEq, Prod.mk.injEq] at h
    rw [h.1, h.2]

theorem readU16_eq_some (bs rest : List Byte) (w : Half) (h : readU16 bs = some (w, rest)) :
    bs = halfBytes w ++ rest := by
  match bs with
  | [] => simp [readU16] at h
  | [x] => simp [readU16] at h
  | x :: y :: bs =>
    simp only [readU16, Option.some.injEq, Prod.mk.injEq] at h
    rw [← h.1, ← h.2]
    simp

@[simp] theorem readU16_halfBytes (w : Half) (rest : List Byte) :
    readU16 (halfBytes w ++ rest) = some (w, rest) := by simp [halfBytes, readU16]

theorem readAddr_eq_some (m : BitVec 2) (bs rest : List Byte) (a : Address)
    (h : readAddr m bs = some (a, rest)) : bs = a.bytes ++ rest ∧ a.mode = modeOf m ∧ a.Wf := by
  unfold readAddr at h
  split at h
  · rename_i field r hs
    obtain ⟨h1, h2⟩ := splitBytes_eq_some _ _ _ _ hs
    simp only [Option.some.injEq, Prod.mk.injEq] at h
    obtain ⟨rfl, rfl⟩ := h
    exact ⟨h1, rfl, by simp [Address.Wf, h2, len_modeOf]⟩
  · cases h

/-- An address of the right length is read whole. -/
theorem readAddr_append (m : BitVec 2) (a : Address) (rest : List Byte) (hm : a.mode = modeOf m) (hw : a.Wf) :
    readAddr m (a.bytes ++ rest) = some (a, rest) := by
  unfold readAddr
  rw [splitBytes_append_of_length (addrLen m) a.bytes rest (by rw [hw, hm, len_modeOf])]
  simp [← hm]

theorem addressOf_wf (m : BitVec 2) (bytes : List Byte) (h : 8 ≤ bytes.length) : (addressOf m bytes).Wf := by
  have := addrLen_le m
  simp only [Address.Wf, addressOf, List.length_take, len_modeOf]
  omega

@[simp] theorem length_addrBytes (v : Word64) : (addrBytes v).length = 8 := by simp [addrBytes]

/-! ### `PARSE` as a whole -/

/-- A sequence number read (R155). -/
theorem readSeq_eq_some (w : Half) (bs rest : List Byte) (q : Byte) (h : readSeq w bs = some (q, rest)) :
    bs = (if seqSuppressed w then [] else [q]) ++ rest ∧ (seqSuppressed w = true → q = 0) := by
  unfold readSeq at h
  split at h
  · rename_i hs
    simp only [Option.some.injEq, Prod.mk.injEq] at h
    simp [hs, h.1, h.2]
  · rename_i hs
    have := readU8_eq_some bs rest q h
    simp [hs, this]

/-- A destination PAN ID read (R155). -/
theorem readDestPan_eq_some (w : Half) (bs rest : List Byte) (p : Half) (h : readDestPan w bs = some (p, rest)) :
    bs = (if present (destModeOf w) then halfBytes p else []) ++ rest
      ∧ (present (destModeOf w) = false → p = 0) := by
  unfold readDestPan at h
  split at h
  · rename_i hp
    simp [hp, readU16_eq_some bs rest p h]
  · rename_i hp
    simp only [Option.some.injEq, Prod.mk.injEq] at h
    simp [hp, h.1, h.2]

/-- A source PAN ID read: from the wire, copied, or 0 (R155, R157). -/
theorem readSrcPan_eq_some (w dp : Half) (bs rest : List Byte) (p : Half)
    (h : readSrcPan w dp bs = some (p, rest)) :
    bs = (if present (srcModeOf w) && !panCompressed w then halfBytes p else []) ++ rest
      ∧ (present (srcModeOf w) = false → p = 0)
      ∧ (present (srcModeOf w) = true → panCompressed w = true → p = dp) := by
  unfold readSrcPan at h
  split at h
  · rename_i hp
    split at h
    · rename_i hc
      simp only [Option.some.injEq, Prod.mk.injEq] at h
      simp [hp, hc, h.1, h.2]
    · rename_i hc
      simp [hp, hc, readU16_eq_some bs rest p h]
  · rename_i hp
    simp only [Option.some.injEq, Prod.mk.injEq] at h
    simp [hp, h.1, h.2]

/-- What reading the fields does: the bytes are the header and the payload of the frame, which is well formed
and holds the values R155 gives to what is absent. -/
theorem parseFields_eq_some (bs : List Byte) (f : Frame) (h : parseFields bs = some f) :
    bs = headerBytes f ++ f.payload ∧ f.modesAgree = true ∧ f.Wf ∧ canon f = f := by
  simp only [parseFields, Option.bind_eq_some_iff] at h
  obtain ⟨⟨w, b1⟩, h1, ⟨q, b2⟩, h2, ⟨dp, b3⟩, h3, ⟨da, b4⟩, h4, ⟨sp, b5⟩, h5, ⟨sa, b6⟩, h6, h7⟩ := h
  simp only [Option.some.injEq] at h7
  subst h7
  dsimp only at h2 h3 h4 h5 h6
  obtain ⟨e2, z2⟩ := readSeq_eq_some _ _ _ _ h2
  obtain ⟨e3, z3⟩ := readDestPan_eq_some _ _ _ _ h3
  obtain ⟨e4, m4, l4⟩ := readAddr_eq_some _ _ _ _ h4
  obtain ⟨e5, z5, c5⟩ := readSrcPan_eq_some _ _ _ _ _ h5
  obtain ⟨e6, m6, l6⟩ := readAddr_eq_some _ _ _ _ h6
  refine ⟨?_, by simp [Frame.modesAgree, m4, m6], ⟨l4, l6⟩, ?_⟩
  · rw [readU16_eq_some _ _ _ h1, e2, e3, e4, e5, e6]
    simp [headerBytes]
  · simp only [canon, Frame.mk.injEq, true_and, and_true]
    refine ⟨?_, ?_, ?_⟩
    · split
      · rename_i hs; exact (z2 hs).symm
      · rfl
    · split
      · rfl
      · rename_i hs; exact (z3 (by simpa using hs)).symm
    · split
      · rename_i hs
        split
        · rename_i hc
          rw [c5 hs hc]
          split
          · rfl
          · rename_i hd; exact (z3 (by simpa using hd)).symm
        · rfl
      · rename_i hs; exact (z5 (by simpa using hs)).symm

/-- The header and payload of a well-formed frame are read back as its canonical form. -/
theorem parseFields_headerBytes (f : Frame) (hm : f.modesAgree = true) (hw : f.Wf) :
    parseFields (headerBytes f ++ f.payload) = some (canon f) := by
  simp only [Frame.modesAgree, Bool.and_eq_true, decide_eq_true_eq] at hm
  unfold parseFields headerBytes
  simp only [List.append_assoc]
  rw [readU16_halfBytes]
  simp only [Option.bind_some]
  have h2 : ∀ r, readSeq f.fcf ((if seqSuppressed f.fcf then [] else [f.seq]) ++ r)
      = some (if seqSuppressed f.fcf then 0 else f.seq, r) := by
    intro r
    unfold readSeq
    split <;> simp [readU8]
  rw [h2]
  simp only [Option.bind_some]
  have h3 : ∀ r, readDestPan f.fcf ((if present (destModeOf f.fcf) then halfBytes f.destPan else []) ++ r)
      = some (if present (destModeOf f.fcf) then f.destPan else 0, r) := by
    intro r
    unfold readDestPan
    split <;> simp
  rw [h3]
  simp only [Option.bind_some]
  rw [readAddr_append _ _ _ hm.1 hw.1]
  simp only [Option.bind_some]
  have h5 : ∀ d r, readSrcPan f.fcf d
      ((if (present (srcModeOf f.fcf) && !panCompressed f.fcf) = true then halfBytes f.srcPan else []) ++ r)
      = some (if present (srcModeOf f.fcf) then if panCompressed f.fcf then d else f.srcPan else 0, r) := by
    intro d r
    unfold readSrcPan
    cases present (srcModeOf f.fcf) <;> cases panCompressed f.fcf <;> simp
  rw [h5]
  simp only [Option.bind_some]
  rw [readAddr_append _ _ _ hm.2 hw.2]
  simp [canon]

/-- What `PARSE` accepts: at least as many bytes as declared, whose fields are read, and the declared length is
the frame's. -/
theorem parse_eq_some (raw : List Byte) (f : Frame) (h : parse raw = some f) :
    ∃ len rest, raw = len :: rest ∧ len.toNat ≤ raw.length
      ∧ parseFields (rest.take (len.toNat - 2)) = some f ∧ len.toNat = frameTotal f := by
  unfold parse at h
  split at h
  · cases h
  · rename_i len rest
    split at h
    · cases h
    · rename_i hc
      obtain ⟨e, hm, hw, _⟩ := parseFields_eq_some _ _ h
      refine ⟨len, rest, rfl, by omega, h, ?_⟩
      have hl := congrArg List.length e
      have hg := hdrLen_ge f.fcf
      simp only [List.length_take, List.length_append, length_headerBytes f hm hw, List.length_cons] at hl hc
      unfold frameTotal
      omega


/-- With enough bytes a sequence number is read. -/
theorem readSeq_exists (w : Half) (bs : List Byte) (h : (if seqSuppressed w then 0 else 1) ≤ bs.length) :
    ∃ q r, readSeq w bs = some (q, r) ∧ r.length = bs.length - (if seqSuppressed w then 0 else 1) := by
  unfold readSeq
  split
  · exact ⟨0, bs, rfl, by simp⟩
  · rename_i hs
    simp only [hs] at h
    cases bs with
    | nil => simp at h
    | cons b bs => exact ⟨b, bs, rfl, by simp⟩

/-- With two bytes a `u16` is read. -/
theorem readU16_exists (bs : List Byte) (h : 2 ≤ bs.length) :
    ∃ p r, readU16 bs = some (p, r) ∧ r.length = bs.length - 2 := by
  match bs, h with
  | b0 :: b1 :: r, _ => exact ⟨_, r, rfl, by simp⟩

/-- With enough bytes a destination PAN ID is read. -/
theorem readDestPan_exists (w : Half) (bs : List Byte)
    (h : (if present (destModeOf w) then 2 else 0) ≤ bs.length) :
    ∃ p r, readDestPan w bs = some (p, r) ∧ r.length = bs.length - (if present (destModeOf w) then 2 else 0) := by
  unfold readDestPan
  split
  · rename_i hp
    simp only [hp, if_true] at h
    exact readU16_exists bs h
  · exact ⟨0, bs, rfl, by simp⟩

/-- With enough bytes an address is read. -/
theorem readAddr_exists (m : BitVec 2) (bs : List Byte) (h : addrLen m ≤ bs.length) :
    ∃ a r, readAddr m bs = some (a, r) ∧ r.length = bs.length - addrLen m := by
  unfold readAddr splitBytes
  rw [if_neg (by omega)]
  exact ⟨_, _, rfl, by simp⟩

/-- With enough bytes a source PAN ID is read. -/
theorem readSrcPan_exists (w d : Half) (bs : List Byte)
    (h : (if present (srcModeOf w) && !panCompressed w then 2 else 0) ≤ bs.length) :
    ∃ p r, readSrcPan w d bs = some (p, r)
      ∧ r.length = bs.length - (if present (srcModeOf w) && !panCompressed w then 2 else 0) := by
  unfold readSrcPan
  cases hp : present (srcModeOf w) <;> cases hc : panCompressed w <;> simp [hp, hc] at h ⊢
  exact readU16_exists bs h

/-- With a header's worth of bytes every field is read. -/
theorem parseFields_isSome (b0 b1 : Byte) (bs : List Byte) (h : hdrLen (le16 b0 b1) ≤ 2 + bs.length) :
    (parseFields (b0 :: b1 :: bs)).isSome = true := by
  unfold hdrLen at h
  simp only [parseFields, readU16, Option.bind_some]
  obtain ⟨q, b2, h2, l2⟩ := readSeq_exists (le16 b0 b1) bs (by omega)
  rw [h2]
  simp only [Option.bind_some]
  obtain ⟨p, b3, h3, l3⟩ := readDestPan_exists (le16 b0 b1) b2 (by omega)
  rw [h3]
  simp only [Option.bind_some]
  obtain ⟨a, b4, h4, l4⟩ := readAddr_exists (destModeOf (le16 b0 b1)) b3 (by omega)
  rw [h4]
  simp only [Option.bind_some]
  obtain ⟨sp, b5, h5, l5⟩ := readSrcPan_exists (le16 b0 b1) p b4 (by omega)
  rw [h5]
  simp only [Option.bind_some]
  obtain ⟨sa, b6, h6, l6⟩ := readAddr_exists (srcModeOf (le16 b0 b1)) b5 (by omega)
  rw [h6]
  rfl


end Sys2Proof.Machine
end

