-- ==== Sys2Proof/Laws/Memory.lean ====
section
/-! SUPPORT. The laws of byte buffers: a read after a write, what a write leaves alone, the canonical form kept
by every operation, and equal buffers being equal data. -/

namespace Sys2Proof.Machine

@[simp] theorem Memory.read_nil (x : Nat) : Memory.read [] x = Memory.unlisted := rfl

theorem Memory.read_cons (a : Nat) (b : Byte) (m : Memory) (x : Nat) :
    Memory.read ((a, b) :: m) x = if x = a then b else Memory.read m x := rfl

/-- Below every listed index nothing is written. -/
theorem Memory.read_below (m : Memory) (lo : Nat) (h : Memory.wfAbove (some lo) m = true) (x : Nat)
    (hx : x ≤ lo) : Memory.read m x = Memory.unlisted := by
  induction m generalizing lo with
  | nil => rfl
  | cons c m ih =>
    obtain ⟨a, b⟩ := c
    simp only [Memory.wfAbove, Bool.and_eq_true, decide_eq_true_eq] at h
    rw [Memory.read_cons, if_neg (by omega)]
    exact ih a h.2 (by omega)

theorem Memory.wfAbove_mono (m : Memory) (lo lo' : Nat) (h : Memory.wfAbove (some lo) m = true)
    (hle : lo' ≤ lo) : Memory.wfAbove (some lo') m = true := by
  cases m with
  | nil => rfl
  | cons c m =>
    obtain ⟨a, b⟩ := c
    simp only [Memory.wfAbove, Bool.and_eq_true, decide_eq_true_eq] at h ⊢
    exact ⟨⟨by omega, h.1.2⟩, h.2⟩

theorem Memory.wfAbove_none (m : Memory) (lo : Nat) (h : Memory.wfAbove (some lo) m = true) :
    Memory.wfAbove none m = true := by
  cases m with
  | nil => rfl
  | cons c m =>
    obtain ⟨a, b⟩ := c
    simp only [Memory.wfAbove, Bool.and_eq_true, decide_eq_true_eq] at h ⊢
    exact ⟨⟨trivial, h.1.2⟩, h.2⟩

/-- The lower bound of a well-formed tail, as a proposition: what `lo` says of an index. -/
def Memory.above (lo : Option Nat) (a : Nat) : Prop := ∀ l, lo = some l → l < a

theorem Memory.wfAbove_cons (lo : Option Nat) (a : Nat) (b : Byte) (m : Memory) :
    Memory.wfAbove lo ((a, b) :: m) = true
      ↔ Memory.above lo a ∧ b ≠ Memory.unlisted ∧ Memory.wfAbove (some a) m = true := by
  cases lo <;> simp [Memory.wfAbove, Memory.above, and_assoc]

theorem Memory.wfAbove_cell (lo : Option Nat) (a : Nat) (v : Byte) (m : Memory) (ha : Memory.above lo a)
    (hm : Memory.wfAbove (some a) m = true) (hm' : Memory.wfAbove lo m = true) :
    Memory.wfAbove lo (Memory.cell a v m) = true := by
  unfold Memory.cell
  split
  · exact hm'
  · exact (Memory.wfAbove_cons lo a v m).2 ⟨ha, by assumption, hm⟩

theorem Memory.wfAbove_write (m : Memory) (lo : Option Nat) (a : Nat) (v : Byte) (ha : Memory.above lo a)
    (h : Memory.wfAbove lo m = true) : Memory.wfAbove lo (m.write a v) = true := by
  induction m generalizing lo with
  | nil => exact Memory.wfAbove_cell lo a v [] ha rfl rfl
  | cons c m ih =>
    obtain ⟨x, b⟩ := c
    obtain ⟨hx, hb, hm⟩ := (Memory.wfAbove_cons lo x b m).1 h
    unfold Memory.write
    split
    · rename_i hlt
      refine Memory.wfAbove_cell lo a v _ ha ?_ h
      exact (Memory.wfAbove_cons _ x b m).2 ⟨fun l hl => by cases hl; exact hlt, hb, hm⟩
    · split
      · rename_i heq
        subst heq
        refine Memory.wfAbove_cell lo a v m ha hm ?_
        cases lo with
        | none => exact Memory.wfAbove_none m a hm
        | some l => exact Memory.wfAbove_mono m a l hm (Nat.le_of_lt (hx l rfl))
      · rename_i h1 h2
        refine (Memory.wfAbove_cons lo x b _).2 ⟨hx, hb, ih (some x) ?_ hm⟩
        intro l hl
        cases hl
        omega

/-- Every write keeps the canonical form. -/
theorem Memory.wf_write (m : Memory) (a : Nat) (v : Byte) (h : m.wf = true) : (m.write a v).wf = true :=
  Memory.wfAbove_write m none a v (fun _ hl => by cases hl) h

theorem Memory.wf_writeBytes (bs : List Byte) (m : Memory) (a : Nat) (h : m.wf = true) :
    (m.writeBytes a bs).wf = true := by
  induction bs generalizing m a with
  | nil => exact h
  | cons b bs ih => exact ih (m.write a b) (a + 1) (Memory.wf_write m a b h)

theorem Memory.wf_storeRing (bs : List Byte) (C : Nat) (m : Memory) (pos : Nat) (h : m.wf = true) :
    (m.storeRing C pos bs).wf = true := by
  induction bs generalizing m pos with
  | nil => exact h
  | cons b bs ih => exact ih (m.write (pos % C) b) (pos + 1) (Memory.wf_write m _ b h)

@[simp] theorem Memory.wf_nil : Memory.wf [] = true := rfl

theorem Memory.read_cell (a : Nat) (v : Byte) (m : Memory) (hm : Memory.read m a = Memory.unlisted) (x : Nat) :
    Memory.read (Memory.cell a v m) x = if x = a then v else Memory.read m x := by
  unfold Memory.cell
  split
  · rename_i hv
    by_cases hx : x = a
    · simp [hx, hm, hv]
    · simp [hx]
  · rfl

theorem Memory.read_write_above (m : Memory) (lo : Option Nat) (h : Memory.wfAbove lo m = true) (a : Nat)
    (v : Byte) (x : Nat) : Memory.read (m.write a v) x = if x = a then v else Memory.read m x := by
  induction m generalizing lo with
  | nil => exact Memory.read_cell a v [] rfl x
  | cons c m ih =>
    obtain ⟨y, b⟩ := c
    obtain ⟨_, _, hm⟩ := (Memory.wfAbove_cons lo y b m).1 h
    unfold Memory.write
    split
    · rename_i hlt
      refine Memory.read_cell a v _ ?_ x
      rw [Memory.read_cons, if_neg (by omega)]
      exact Memory.read_below m y hm a (by omega)
    · split
      · rename_i heq
        subst heq
        rw [Memory.read_cell a v m (Memory.read_below m a hm a (Nat.le_refl a)), Memory.read_cons]
        split <;> rfl
      · rename_i h1 h2
        rw [Memory.read_cons, Memory.read_cons, ih (some y) hm]
        by_cases hxy : x = y
        · simp [hxy, Ne.symm h2]
        · simp [hxy]

/-- A read after a write: the byte written at its index, the byte there before everywhere else. -/
theorem Memory.read_write (m : Memory) (h : m.wf = true) (a : Nat) (v : Byte) (x : Nat) :
    Memory.read (m.write a v) x = if x = a then v else Memory.read m x :=
  Memory.read_write_above m none h a v x

/-- Bytes written from `a` on are read back at their indices; every other index reads as before. -/
theorem Memory.read_writeBytes (bs : List Byte) (m : Memory) (a : Nat) (h : m.wf = true) (x : Nat) :
    Memory.read (m.writeBytes a bs) x
      = if a ≤ x ∧ x < a + bs.length then bs.getD (x - a) 0 else Memory.read m x := by
  induction bs generalizing m a with
  | nil =>
    have : ¬ (a ≤ x ∧ x < a + 0) := by omega
    simp only [Memory.writeBytes, List.length_nil, if_neg this]
  | cons b bs ih =>
    simp only [Memory.writeBytes, List.length_cons]
    rw [ih (m.write a b) (a + 1) (Memory.wf_write m a b h), Memory.read_write m h]
    by_cases hx : x = a
    · subst hx
      have h1 : ¬ (x + 1 ≤ x ∧ x < x + 1 + bs.length) := by omega
      have h2 : x ≤ x ∧ x < x + (bs.length + 1) := by omega
      rw [if_neg h1, if_pos rfl, if_pos h2, Nat.sub_self]
      rfl
    · rw [if_neg hx]
      by_cases hr : a + 1 ≤ x ∧ x < a + 1 + bs.length
      · have h2 : a ≤ x ∧ x < a + (bs.length + 1) := by omega
        rw [if_pos hr, if_pos h2]
        have : x - a = (x - (a + 1)) + 1 := by omega
        rw [this]
        rfl
      · have h2 : ¬ (a ≤ x ∧ x < a + (bs.length + 1)) := by omega
        rw [if_neg hr, if_neg h2]

@[simp] theorem Memory.length_readBytes (m : Memory) (a n : Nat) : (m.readBytes a n).length = n := by
  induction n generalizing a with
  | zero => rfl
  | succ n ih => simp [Memory.readBytes, ih]

theorem Memory.getElem_readBytes (m : Memory) (a n i : Nat) (h : i < (m.readBytes a n).length) :
    (m.readBytes a n)[i] = m.read (a + i) := by
  induction n generalizing a i with
  | zero => simp [Memory.readBytes] at h
  | succ n ih =>
    cases i with
    | zero => rfl
    | succ i =>
      have : a + (i + 1) = a + 1 + i := by omega
      simp only [Memory.readBytes, List.getElem_cons_succ, this]
      exact ih (a + 1) i _

/-- Bytes written from `a` on are read back whole. -/
theorem Memory.readBytes_writeBytes (m : Memory) (a : Nat) (bs : List Byte) (h : m.wf = true) :
    (m.writeBytes a bs).readBytes a bs.length = bs := by
  refine List.ext_getElem (by simp) fun i h1 h2 => ?_
  rw [Memory.getElem_readBytes, Memory.read_writeBytes bs m a h]
  have : a ≤ a + i ∧ a + i < a + bs.length := by omega
  rw [if_pos this, Nat.add_sub_cancel_left]
  exact List.getD_eq_getElem bs 0 h2

/-- Reading `n` bytes and then `k` more is reading `n + k` bytes. -/
theorem Memory.readBytes_append (m : Memory) (a n k : Nat) :
    m.readBytes a (n + k) = m.readBytes a n ++ m.readBytes (a + n) k := by
  induction n generalizing a with
  | zero => simp [Memory.readBytes]
  | succ n ih =>
    have h1 : n + 1 + k = n + k + 1 := by omega
    have h2 : a + (n + 1) = a + 1 + n := by omega
    rw [h1, h2]
    simp [Memory.readBytes, ih]

theorem Memory.above_of_read (m : Memory) (lo : Option Nat) (h : Memory.wfAbove lo m = true) (x : Nat)
    (hx : Memory.read m x ≠ Memory.unlisted) : Memory.above lo x := by
  intro l hl
  subst hl
  by_contra hc
  exact hx (Memory.read_below m l h x (by omega))

/-- Two canonical buffers that read alike at every index are the same data. -/
theorem Memory.ext_of_wf (m m' : Memory) (h : m.wf = true) (h' : m'.wf = true)
    (hr : ∀ x, Memory.read m x = Memory.read m' x) : m = m' := by
  suffices key : ∀ (m m' : Memory) (lo : Option Nat), Memory.wfAbove lo m = true → Memory.wfAbove lo m' = true →
      (∀ x, Memory.above lo x → Memory.read m x = Memory.read m' x) → m = m' from
    key m m' none h h' fun x _ => hr x
  intro m
  induction m with
  | nil =>
    intro m' lo _ h' hr
    cases m' with
    | nil => rfl
    | cons c m' =>
      obtain ⟨a, b⟩ := c
      obtain ⟨ha, hb, _⟩ := (Memory.wfAbove_cons lo a b m').1 h'
      have := hr a ha
      rw [Memory.read_cons, if_pos rfl] at this
      exact absurd this.symm hb
  | cons c m ih =>
    intro m' lo h h' hr
    obtain ⟨a, b⟩ := c
    obtain ⟨ha, hb, hm⟩ := (Memory.wfAbove_cons lo a b m).1 h
    cases m' with
    | nil =>
      have := hr a ha
      rw [Memory.read_cons, if_pos rfl] at this
      exact absurd this hb
    | cons c' m' =>
      obtain ⟨a', b'⟩ := c'
      obtain ⟨ha', hb', hm'⟩ := (Memory.wfAbove_cons lo a' b' m').1 h'
      have e : a = a' := by
        rcases Nat.lt_trichotomy a a' with hlt | he | hlt
        · have := hr a ha
          rw [Memory.read_cons, Memory.read_cons, if_pos rfl, if_neg (by omega),
            Memory.read_below m' a' hm' a (by omega)] at this
          exact absurd this hb
        · exact he
        · have := hr a' ha'
          rw [Memory.read_cons, Memory.read_cons, if_pos rfl, if_neg (by omega),
            Memory.read_below m a hm a' (by omega)] at this
          exact absurd this.symm hb'
      subst e
      have eb : b = b' := by
        have := hr a ha
        rwa [Memory.read_cons, Memory.read_cons, if_pos rfl, if_pos rfl] at this
      subst eb
      rw [ih m' (some a) hm hm' fun x hx => ?_]
      have hax : a < x := hx a rfl
      have := hr x fun l hl => Nat.lt_trans (ha l hl) hax
      rwa [Memory.read_cons, Memory.read_cons, if_neg (by omega), if_neg (by omega)] at this

end Sys2Proof.Machine
end

