-- ==== Sys2Proof/Laws/Ring.lean ====
section
/-! SUPPORT. The laws of the ring buffer: every operation keeps `RingBuffer.Wf` (R26), storage stays within its
bounds (R69), and what the bulk load and store do to each index. -/

namespace Sys2Proof.Machine

/-! ### Bounds -/

theorem Memory.within_cell (n a : Nat) (v : Byte) (m : Memory) (ha : a < n) (h : m.within n = true) :
    (Memory.cell a v m).within n = true := by
  unfold Memory.cell
  split
  · exact h
  · simp only [Memory.within, List.all_cons, Bool.and_eq_true, decide_eq_true_eq]
    exact ⟨ha, h⟩

theorem Memory.within_write (n a : Nat) (v : Byte) (m : Memory) (ha : a < n) (h : m.within n = true) :
    (m.write a v).within n = true := by
  induction m with
  | nil => exact Memory.within_cell n a v [] ha rfl
  | cons c m ih =>
    obtain ⟨x, b⟩ := c
    have hm : Memory.within n m = true := by
      simp only [Memory.within, List.all_cons, Bool.and_eq_true] at h
      exact h.2
    unfold Memory.write
    split
    · exact Memory.within_cell n a v _ ha h
    · split
      · exact Memory.within_cell n a v m ha hm
      · simp only [Memory.within, List.all_cons, Bool.and_eq_true, decide_eq_true_eq] at h ⊢
        exact ⟨h.1, ih hm⟩

theorem Memory.within_writeBytes (bs : List Byte) (n a : Nat) (m : Memory) (ha : a + bs.length ≤ n)
    (h : m.within n = true) : (m.writeBytes a bs).within n = true := by
  induction bs generalizing m a with
  | nil => exact h
  | cons b bs ih =>
    simp only [List.length_cons] at ha
    exact ih (a + 1) (m.write a b) (by omega) (Memory.within_write n a b m (by omega) h)

theorem Memory.within_storeRing (bs : List Byte) (C : Nat) (hC : 0 < C) (m : Memory) (pos : Nat)
    (h : m.within C = true) : (m.storeRing C pos bs).within C = true := by
  induction bs generalizing m pos with
  | nil => exact h
  | cons b bs ih =>
    exact ih (m.write (pos % C) b) (pos + 1) (Memory.within_write C _ b m (Nat.mod_lt _ hC) h)

/-! ### What the bulk store and load do -/

/-- Storing `k ≤ C` consecutive bytes: place `pos + i` takes byte `i`, every other index is left alone. -/
theorem Memory.read_storeRing (bs : List Byte) (C : Nat) (m : Memory) (pos : Nat) (h : m.wf = true)
    (hlen : bs.length ≤ C) (x : Nat) :
    ((∀ i, i < bs.length → x ≠ (pos + i) % C) → (m.storeRing C pos bs).read x = m.read x)
    ∧ ∀ i (hi : i < bs.length), x = (pos + i) % C → (m.storeRing C pos bs).read x = bs[i] := by
  induction bs generalizing m pos with
  | nil => exact ⟨fun _ => rfl, fun i hi => absurd hi (by simp)⟩
  | cons b bs ih =>
    simp only [List.length_cons] at hlen
    obtain ⟨ih1, ih2⟩ := ih (m.write (pos % C) b) (pos + 1) (Memory.wf_write m _ b h) (by omega)
    constructor
    · intro hx
      have e : (m.storeRing C pos (b :: bs)).read x = (m.write (pos % C) b).read x := ih1 fun i hi => by
        have := hx (i + 1) (by simp only [List.length_cons]; omega)
        rwa [show pos + (i + 1) = pos + 1 + i by omega] at this
      rw [e, Memory.read_write m h, if_neg]
      simpa using hx 0 (by simp)
    · intro i hi hx
      cases i with
      | zero =>
        have e : (m.storeRing C pos (b :: bs)).read x = (m.write (pos % C) b).read x := ih1 fun j hj => by
          subst hx
          intro hc
          have hC : 0 < C := by omega
          simp only [Nat.add_zero] at hc
          have h1 : (pos + 1 + j) % C = pos % C := hc.symm
          have h2 : (pos + (1 + j)) ≡ pos + 0 [MOD C] := by
            simpa [Nat.ModEq, Nat.add_assoc] using h1
          have h3 : (1 + j) ≡ 0 [MOD C] := Nat.ModEq.add_left_cancel' pos h2
          have h4 : (1 + j) % C = 0 := by simpa [Nat.ModEq] using h3
          rw [Nat.mod_eq_of_lt (by omega)] at h4
          omega
        rw [e, Memory.read_write m h, if_pos (by simpa using hx)]
        rfl
      | succ i =>
        simp only [List.length_cons] at hi
        exact ih2 i (by omega) (by rw [hx]; congr 1; omega)

@[simp] theorem Memory.length_loadRing (m : Memory) (C pos n : Nat) : (m.loadRing C pos n).length = n := by
  induction n generalizing pos with
  | zero => rfl
  | succ n ih => simp [Memory.loadRing, ih]

theorem Memory.getElem_loadRing (m : Memory) (C pos n i : Nat) (h : i < (m.loadRing C pos n).length) :
    (m.loadRing C pos n)[i] = m.read ((pos + i) % C) := by
  induction n generalizing pos i with
  | zero => simp [Memory.loadRing] at h
  | succ n ih =>
    cases i with
    | zero => rfl
    | succ i =>
      have : pos + (i + 1) = pos + 1 + i := by omega
      simp only [Memory.loadRing, List.getElem_cons_succ, this]
      exact ih (pos + 1) i _

/-- The bulk load is the list of the bytes at its indices. -/
theorem Memory.loadRing_eq (m : Memory) (C pos n : Nat) :
    m.loadRing C pos n = (List.range n).map fun i => m.read ((pos + i) % C) := by
  refine List.ext_getElem (by simp) fun i h1 h2 => ?_
  rw [Memory.getElem_loadRing]
  simp

theorem RingBuffer.content_eq_loadRing (rb : RingBuffer) :
    rb.content = rb.store.loadRing rb.cap rb.head rb.count := (Memory.loadRing_eq _ _ _ _).symm

@[simp] theorem RingBuffer.length_content (rb : RingBuffer) : rb.content.length = rb.count := by
  simp [RingBuffer.content]

theorem RingBuffer.getElem_content (rb : RingBuffer) (i : Nat) (h : i < rb.content.length) :
    rb.content[i] = rb.store.read ((rb.head + i) % rb.cap) := by simp [RingBuffer.content]

@[simp] theorem RingBuffer.length_front (rb : RingBuffer) (n : Nat) : (rb.front n).length = rb.holds n := by
  simp [RingBuffer.front]

/-! ### The derived flags and counts -/

theorem RingBuffer.isFull_iff (rb : RingBuffer) : rb.isFull = true ↔ rb.count = rb.cap := by
  simp [RingBuffer.isFull]

theorem RingBuffer.isEmpty_iff (rb : RingBuffer) : rb.isEmpty = true ↔ rb.count = 0 := by
  simp [RingBuffer.isEmpty]

theorem RingBuffer.accepts_le (rb : RingBuffer) (n : Nat) : rb.accepts n ≤ n := Nat.min_le_left _ _

theorem RingBuffer.accepts_space (rb : RingBuffer) (n : Nat) : rb.accepts n ≤ rb.cap - rb.count :=
  Nat.min_le_right _ _

theorem RingBuffer.holds_le (rb : RingBuffer) (n : Nat) : rb.holds n ≤ n := Nat.min_le_left _ _

theorem RingBuffer.holds_count (rb : RingBuffer) (n : Nat) : rb.holds n ≤ rb.count := Nat.min_le_right _ _

@[simp] theorem RingBuffer.writeArray_cap (rb : RingBuffer) (d : List Byte) : (rb.writeArray d).cap = rb.cap := rfl
@[simp] theorem RingBuffer.writeArray_head (rb : RingBuffer) (d : List Byte) : (rb.writeArray d).head = rb.head :=
  rfl
@[simp] theorem RingBuffer.writeArray_count (rb : RingBuffer) (d : List Byte) :
    (rb.writeArray d).count = rb.count + rb.accepts d.length := rfl
@[simp] theorem RingBuffer.writeArray_store (rb : RingBuffer) (d : List Byte) :
    (rb.writeArray d).store = rb.store.storeRing rb.cap rb.tail (d.take (rb.accepts d.length)) := rfl
@[simp] theorem RingBuffer.consume_cap (rb : RingBuffer) (n : Nat) : (rb.consume n).cap = rb.cap := rfl
@[simp] theorem RingBuffer.consume_tail (rb : RingBuffer) (n : Nat) : (rb.consume n).tail = rb.tail := rfl
@[simp] theorem RingBuffer.consume_store (rb : RingBuffer) (n : Nat) : (rb.consume n).store = rb.store := rfl
@[simp] theorem RingBuffer.consume_count (rb : RingBuffer) (n : Nat) :
    (rb.consume n).count = rb.count - rb.holds n := rfl
@[simp] theorem RingBuffer.write_cap (rb : RingBuffer) (b : Byte) : (rb.write b).cap = rb.cap := by
  unfold RingBuffer.write; split <;> rfl
@[simp] theorem RingBuffer.write_head (rb : RingBuffer) (b : Byte) : (rb.write b).head = rb.head := by
  unfold RingBuffer.write; split <;> rfl
@[simp] theorem RingBuffer.read_cap (rb : RingBuffer) : rb.read.cap = rb.cap := by
  unfold RingBuffer.read; split <;> rfl
@[simp] theorem RingBuffer.read_store (rb : RingBuffer) : rb.read.store = rb.store := by
  unfold RingBuffer.read; split <;> rfl

theorem RingBuffer.write_of_room (rb : RingBuffer) (b : Byte) (h : rb.count ≠ rb.cap) :
    rb.write b
      = { rb with store := rb.store.write rb.tail b, tail := (rb.tail + 1) % rb.cap, count := rb.count + 1 } := by
  unfold RingBuffer.write
  rw [if_neg h]

theorem RingBuffer.write_of_full (rb : RingBuffer) (b : Byte) (h : rb.count = rb.cap) : rb.write b = rb := by
  unfold RingBuffer.write
  rw [if_pos h]

/-! ### Every operation keeps the invariants of R26 -/

theorem RingBuffer.empty_wf : RingBuffer.empty.Wf :=
  ⟨by decide, by decide, fun _ => ⟨rfl, rfl⟩, by decide, by decide, rfl, rfl⟩

theorem RingBuffer.resize_wf (n : Nat) (h : n ≤ Config.rbCapMax) : (RingBuffer.resize n).Wf :=
  ⟨h, Nat.zero_le n, fun _ => ⟨rfl, rfl⟩, fun h => h, fun _ => (Nat.zero_mod n).symm, rfl, rfl⟩

theorem RingBuffer.writeArray_wf (rb : RingBuffer) (data : List Byte) (h : rb.Wf) : (rb.writeArray data).Wf := by
  have hk := rb.accepts_space data.length
  have hcount := h.count
  refine ⟨h.capMax, ?_, ?_, h.head, ?_, Memory.wf_storeRing _ _ _ _ h.canonical, ?_⟩
  · simp only [writeArray_count, writeArray_cap]
    omega
  · intro hc
    have hc' : rb.cap = 0 := hc
    have hk0 : rb.accepts data.length = 0 := by omega
    refine ⟨(h.zero hc').1, ?_⟩
    show (if rb.accepts data.length > 0 then _ else rb.tail) = 0
    rw [if_neg (by omega)]
    exact (h.zero hc').2
  · intro hc
    show (if rb.accepts data.length > 0 then (rb.tail + rb.accepts data.length) % rb.cap else rb.tail)
      = (rb.head + (rb.count + rb.accepts data.length)) % rb.cap
    have ht := h.tail hc
    split
    · rw [ht, Nat.mod_add_mod, Nat.add_assoc]
    · rename_i h0
      rw [ht, show rb.accepts data.length = 0 by omega, Nat.add_zero]
  · simp only [writeArray_store, writeArray_cap]
    by_cases hC : 0 < rb.cap
    · exact Memory.within_storeRing _ _ hC _ _ h.within
    · have hk0 : rb.accepts data.length = 0 := by omega
      rw [hk0]
      exact h.within

theorem RingBuffer.write_wf (rb : RingBuffer) (b : Byte) (h : rb.Wf) : (rb.write b).Wf := by
  by_cases hf : rb.count = rb.cap
  · rw [rb.write_of_full b hf]
    exact h
  · have hcount := h.count
    have hC : 1 ≤ rb.cap := by omega
    rw [rb.write_of_room b hf]
    have hlt : rb.tail < rb.cap := by
      rw [h.tail hC]
      exact Nat.mod_lt _ hC
    refine ⟨h.capMax, ?_, ?_, h.head, ?_, Memory.wf_write _ _ _ h.canonical,
      Memory.within_write _ _ _ _ hlt h.within⟩
    · show rb.count + 1 ≤ rb.cap
      omega
    · intro hc
      have hc' : rb.cap = 0 := hc
      omega
    · intro _
      show (rb.tail + 1) % rb.cap = (rb.head + (rb.count + 1)) % rb.cap
      rw [h.tail hC, Nat.mod_add_mod, Nat.add_assoc]

theorem RingBuffer.consume_wf (rb : RingBuffer) (n : Nat) (h : rb.Wf) : (rb.consume n).Wf := by
  have hk := rb.holds_count n
  have hcount := h.count
  refine ⟨h.capMax, ?_, ?_, ?_, ?_, h.canonical, h.within⟩
  · simp only [consume_count, consume_cap]
    omega
  · intro hc
    have hc' : rb.cap = 0 := hc
    refine ⟨?_, (h.zero hc').2⟩
    show (if rb.holds n > 0 then _ else rb.head) = 0
    rw [if_neg (by omega)]
    exact (h.zero hc').1
  · intro hc
    show (if rb.holds n > 0 then (rb.head + rb.holds n) % rb.cap else rb.head) < rb.cap
    split
    · exact Nat.mod_lt _ hc
    · exact h.head hc
  · intro hc
    show rb.tail
      = ((if rb.holds n > 0 then (rb.head + rb.holds n) % rb.cap else rb.head) + (rb.count - rb.holds n)) % rb.cap
    rw [h.tail hc]
    split
    · rw [Nat.mod_add_mod]
      congr 1
      omega
    · congr 1
      omega

theorem RingBuffer.read_wf (rb : RingBuffer) (h : rb.Wf) : rb.read.Wf := by
  by_cases h0 : rb.count = 0
  · unfold RingBuffer.read
    rw [if_pos h0]
    exact h
  · have e : rb.read = rb.consume 1 := by
      have hh : rb.holds 1 = 1 := by
        unfold RingBuffer.holds
        omega
      unfold RingBuffer.read RingBuffer.consume
      simp [h0, hh]
    rw [e]
    exact rb.consume_wf 1 h

end Sys2Proof.Machine
end

