-- ==== Sys2Proof/Laws/Content.lean ====
section
/-! SUPPORT. What the ring buffer operations do to the abstract content of 10_state.md R27: a write appends at
the right, a read takes from the left, nothing else of the content changes. -/

namespace Sys2Proof.Machine

/-- Two places less than `C` apart and not equal have different indices. -/
theorem mod_ne_of_lt (a i j C : Nat) (hij : i < j) (hj : j < i + C) : (a + i) % C ≠ (a + j) % C := by
  intro h
  have h1 : (a + i) ≡ (a + j) [MOD C] := h
  have h2 : i ≡ j [MOD C] := Nat.ModEq.add_left_cancel' a h1
  have h3 : C ∣ j - i := (Nat.modEq_iff_dvd' (Nat.le_of_lt hij)).1 h2
  have := Nat.le_of_dvd (by omega) h3
  omega

/-- `RB_WRITE_ARRAY`, abstractly (R184): `content <- content ++ data[0..k)`. -/
theorem RingBuffer.content_writeArray (rb : RingBuffer) (data : List Byte) (h : rb.Wf) :
    (rb.writeArray data).content = rb.content ++ data.take (rb.accepts data.length) := by
  have hk := rb.accepts_space data.length
  have hkn := rb.accepts_le data.length
  have hcount := h.count
  have hlen : (data.take (rb.accepts data.length)).length = rb.accepts data.length := by
    rw [List.length_take]
    omega
  refine List.ext_getElem (by simp [hlen]) fun i h1 h2 => ?_
  simp only [length_content, writeArray_count] at h1
  rw [getElem_content]
  simp only [writeArray_head, writeArray_cap, writeArray_store]
  obtain ⟨out, hit⟩ := Memory.read_storeRing (data.take (rb.accepts data.length)) rb.cap rb.store rb.tail
    h.canonical (by omega) ((rb.head + i) % rb.cap)
  by_cases hi : i < rb.count
  · rw [List.getElem_append_left (by simpa using hi), getElem_content]
    refine out fun j hj => ?_
    rw [hlen] at hj
    rw [h.tail (by omega), Nat.mod_add_mod, Nat.add_assoc]
    exact mod_ne_of_lt _ _ _ _ (by omega) (by omega)
  · rw [List.getElem_append_right (by simpa using hi)]
    simp only [length_content]
    refine hit (i - rb.count) (by omega) ?_
    rw [h.tail (by omega), Nat.mod_add_mod]
    congr 1
    omega

/-- What `RB_READ_ARRAY` returns (R187): `content[0..k)`. -/
theorem RingBuffer.front_eq (rb : RingBuffer) (n : Nat) : rb.front n = rb.content.take n := by
  have hk := rb.holds_count n
  refine List.ext_getElem (by simp [RingBuffer.holds]) fun i h1 h2 => ?_
  rw [List.getElem_take, getElem_content]
  exact Memory.getElem_loadRing rb.store rb.cap rb.head (rb.holds n) i h1

/-- `RB_READ_ARRAY`, abstractly (R187): `content <- content[k..)`. -/
theorem RingBuffer.content_consume (rb : RingBuffer) (n : Nat) : (rb.consume n).content = rb.content.drop n := by
  have hk : rb.holds n = min n rb.count := rfl
  refine List.ext_getElem (by simp; omega) fun i h1 h2 => ?_
  simp only [length_content, consume_count] at h1
  rw [List.getElem_drop, getElem_content, getElem_content]
  show rb.store.read (((if rb.holds n > 0 then (rb.head + rb.holds n) % rb.cap else rb.head) + i) % rb.cap) = _
  split
  · rw [Nat.mod_add_mod]
    congr 2
    omega
  · congr 2
    omega

/-- `RB_WRITE_ARRAY`, index by index (R184). -/
theorem RingBuffer.appended_writeArray (rb : RingBuffer) (data : List Byte) (hw : rb.Wf) :
    rb.Appended (rb.writeArray data) (data.take (min data.length (rb.cap - rb.count))) := by
  have hk := rb.accepts_space data.length
  have hkn := rb.accepts_le data.length
  have hcount := hw.count
  have ha : min data.length (rb.cap - rb.count) = rb.accepts data.length := rfl
  rw [ha]
  have hlen : (data.take (rb.accepts data.length)).length = rb.accepts data.length := by
    rw [List.length_take]
    omega
  have key := Memory.read_storeRing (data.take (rb.accepts data.length)) rb.cap rb.store rb.tail hw.canonical
    (by omega)
  refine ⟨rfl, rfl, ?_, ?_, ?_, ?_⟩
  · rw [hlen]
    show (if rb.accepts data.length > 0 then _ else _) = _
    by_cases h0 : rb.accepts data.length = 0
    · simp [h0]
    · rw [if_pos (by omega), if_neg h0]
  · rw [hlen]
    rfl
  · exact fun i hi => (key _).2 i hi rfl
  · exact fun x hx => (key x).1 hx

/-- `RB_READ_ARRAY` takes the oldest bytes and touches no storage byte (R187). -/
theorem RingBuffer.consume_eq_without (rb : RingBuffer) (n : Nat) : rb.consume n = rb.without (min n rb.count) := by
  unfold RingBuffer.consume RingBuffer.without RingBuffer.holds
  by_cases h : min n rb.count = 0
  · simp [h]
  · have : min n rb.count > 0 := by omega
    simp only [this, if_true, h, if_false]

/-- `RB_WRITE` is `RB_WRITE_ARRAY` of one byte (R195). -/
theorem RingBuffer.write_eq_writeArray (rb : RingBuffer) (b : Byte) (h : rb.Wf) :
    rb.write b = rb.writeArray [b] := by
  have hcount := h.count
  by_cases hf : rb.count = rb.cap
  · rw [write_of_full rb b hf]
    have ha : rb.accepts 1 = 0 := by
      have := rb.accepts_space 1
      omega
    simp [RingBuffer.writeArray, ha, Memory.storeRing]
  · rw [write_of_room rb b hf]
    have ha : rb.accepts 1 = 1 := by
      unfold RingBuffer.accepts
      omega
    have htail : rb.tail % rb.cap = rb.tail := by
      rw [h.tail (by omega), Nat.mod_mod]
    simp [RingBuffer.writeArray, ha, Memory.storeRing, htail]

/-- `RB_READ` is `RB_READ_ARRAY` of one byte (R195). -/
theorem RingBuffer.read_eq_consume (rb : RingBuffer) : rb.read = rb.consume 1 := by
  by_cases h0 : rb.count = 0
  · have hh : rb.holds 1 = 0 := by
      unfold RingBuffer.holds
      omega
    cases rb
    simp_all [RingBuffer.read, RingBuffer.consume]
  · have hh : rb.holds 1 = 1 := by
      unfold RingBuffer.holds
      omega
    simp [RingBuffer.read, RingBuffer.consume, h0, hh]

/-- `RB_WRITE`, abstractly (R182). -/
theorem RingBuffer.content_write (rb : RingBuffer) (b : Byte) (h : rb.Wf) :
    (rb.write b).content = if rb.count = rb.cap then rb.content else rb.content ++ [b] := by
  have hcount := h.count
  split
  · rename_i hf
    rw [write_of_full rb b hf]
  · have ha : rb.accepts 1 = 1 := by
      unfold RingBuffer.accepts
      omega
    rw [write_eq_writeArray rb b h, content_writeArray rb [b] h]
    simp [ha]

/-- `RB_READ`, abstractly (R185). -/
theorem RingBuffer.content_read (rb : RingBuffer) : rb.read.content = rb.content.tail := by
  rw [read_eq_consume, content_consume, List.drop_one]

theorem headD_of_length (bs : List Byte) (h : 0 < bs.length) : bs.headD 0 = bs[0] := by
  cases bs with
  | nil => simp at h
  | cons b bs => rfl

/-- The byte `RB_READ` and `RB_PEEK` return is the oldest one (R185, R188). -/
theorem RingBuffer.headByte_eq (rb : RingBuffer) (h : rb.Wf) : rb.headByte = rb.content.headD 0 := by
  unfold RingBuffer.headByte
  split
  · rename_i h0
    have : rb.content = [] := List.eq_nil_of_length_eq_zero (by simpa using h0)
    simp [this]
  · rename_i h0
    have hlen : 0 < rb.content.length := by
      rw [length_content]
      omega
    have hC : 1 ≤ rb.cap := by
      have := h.count
      omega
    have e : rb.content[0] = rb.store.read ((rb.head + 0) % rb.cap) := getElem_content rb 0 hlen
    rw [Nat.add_zero, Nat.mod_eq_of_lt (h.head hC)] at e
    rw [← e]
    exact (headD_of_length rb.content hlen).symm

@[simp] theorem RingBuffer.content_resize (n : Nat) : (RingBuffer.resize n).content = [] := rfl

end Sys2Proof.Machine
end

