-- ==== Sys2Proof/Laws/PerInstr.lean ====
section
/-! SUPPORT. Statements made once for each constructor of `Instr`.

`EncodeGroup` is the division of the opcode space of 30_encoding.md R110 seen from the encoder: what is encoded
for the command port begins with an opcode of the groups 0x0_ to 0x3_, for the event port with one of group
0x4_, an internal step is one byte of group 0x5_, and the layout row is two bytes. -/

namespace Sys2Proof.Laws.EncodeGroup

/-- The bytes of an instruction begin with an opcode of its port's groups. -/
def Statement (i : Instr) : Prop :=
  match i.port with
  | .command => ∃ op rest, encode i = op :: rest ∧ op.toNat / 16 ≤ 3
  | .event => ∃ op rest, encode i = op :: rest ∧ op.toNat / 16 = 4
  | .internal => ∃ op, encode i = [op] ∧ op.toNat / 16 = 5
  | .wire => (encode i).length = 2

theorem addrLen (b : Byte) : Statement (.addrLen b) := ⟨_, _, rfl, by decide⟩
theorem addrMake (mode : Byte) (bytes : List Byte) :
    Statement (.addrMake mode bytes) := ⟨_, _, rfl, by decide⟩
theorem fcfUnpack (w : Half) : Statement (.fcfUnpack w) := ⟨_, _, rfl, by decide⟩
theorem fcfPack (f : FcfBytes) : Statement (.fcfPack f) := ⟨_, _, rfl, by decide⟩
theorem parse (raw : List Byte) : Statement (.parse raw) := ⟨_, _, rfl, by decide⟩
theorem build (cap : Half) (fcf : Half) (seq : Byte) (destPan : Half) (srcPan : Half) (destAddr : List Byte) (srcAddr : List Byte) (payload : List Byte) :
    Statement (.build cap fcf seq destPan srcPan destAddr srcAddr payload) := ⟨_, _, rfl, by decide⟩
theorem rbWrite (rb : Byte) (b : Byte) : Statement (.rbWrite rb b) := ⟨_, _, rfl, by decide⟩
theorem rbWriteArray (rb : Byte) (data : List Byte) :
    Statement (.rbWriteArray rb data) := ⟨_, _, rfl, by decide⟩
theorem rbRead (rb : Byte) : Statement (.rbRead rb) := ⟨_, _, rfl, by decide⟩
theorem rbReadArray (rb : Byte) (n : Half) : Statement (.rbReadArray rb n) := ⟨_, _, rfl, by decide⟩
theorem rbPeek (rb : Byte) : Statement (.rbPeek rb) := ⟨_, _, rfl, by decide⟩
theorem rbAvailable (rb : Byte) : Statement (.rbAvailable rb) := ⟨_, _, rfl, by decide⟩
theorem rbAvailableForWrite (rb : Byte) : Statement (.rbAvailableForWrite rb) := ⟨_, _, rfl, by decide⟩
theorem rbIsFull (rb : Byte) : Statement (.rbIsFull rb) := ⟨_, _, rfl, by decide⟩
theorem rbIsEmpty (rb : Byte) : Statement (.rbIsEmpty rb) := ⟨_, _, rfl, by decide⟩
theorem rbResize (rb : Byte) (n : Half) : Statement (.rbResize rb n) := ⟨_, _, rfl, by decide⟩
theorem cfgWrite (idx : Byte) (val : Word64) : Statement (.cfgWrite idx val) := ⟨_, _, rfl, by decide⟩
theorem tBegin : Statement .tBegin := ⟨_, _, rfl, by decide⟩
theorem tEnd : Statement .tEnd := ⟨_, _, rfl, by decide⟩
theorem tWrite (b : Byte) : Statement (.tWrite b) := ⟨_, _, rfl, by decide⟩
theorem tFlush : Statement .tFlush := ⟨_, _, rfl, by decide⟩
theorem tReceive : Statement .tReceive := ⟨_, _, rfl, by decide⟩
theorem tRead : Statement .tRead := ⟨_, _, rfl, by decide⟩
theorem tReadBytes (n : Half) (timeout : Word32) : Statement (.tReadBytes n timeout) := ⟨_, _, rfl, by decide⟩
theorem tAvailable : Statement .tAvailable := ⟨_, _, rfl, by decide⟩
theorem tMeta : Statement .tMeta := ⟨_, _, rfl, by decide⟩
theorem evTxDone : Statement .evTxDone := ⟨_, _, rfl, by decide⟩
theorem evTxFailed (errorCode : Word32) : Statement (.evTxFailed errorCode) := ⟨_, _, rfl, by decide⟩
theorem evAckTimeout : Statement .evAckTimeout := ⟨_, _, rfl, by decide⟩
theorem evRetryDelayDone : Statement .evRetryDelayDone := ⟨_, _, rfl, by decide⟩
theorem evReadTimeout : Statement .evReadTimeout := ⟨_, _, rfl, by decide⟩
theorem evRxEnqueue (raw : List Byte) (rssi : Byte) (lqi : Byte) (channel : Byte) :
    Statement (.evRxEnqueue raw rssi lqi channel) := ⟨_, _, rfl, by decide⟩
theorem sendNoconf : Statement .sendNoconf := ⟨_, rfl, by decide⟩
theorem sendConf : Statement .sendConf := ⟨_, rfl, by decide⟩
theorem arqIssue : Statement .arqIssue := ⟨_, rfl, by decide⟩
theorem arqDecide : Statement .arqDecide := ⟨_, rfl, by decide⟩
theorem seqValidate : Statement .seqValidate := ⟨_, rfl, by decide⟩
theorem rdStep : Statement .rdStep := ⟨_, rfl, by decide⟩
theorem drain : Statement .drain := ⟨_, rfl, by decide⟩
theorem fcfWord (w : Half) : Statement (.fcfWord w) := rfl

end Sys2Proof.Laws.EncodeGroup
end

