-- ==== Sys2Proof/Laws/State.lean ====
section
/-! SUPPORT. What each named update of the state does to each field, one lemma a field, true by `rfl`: a proof
about an operation rewrites with these and does not unfold a record update. -/

namespace Sys2Proof.Machine

variable (s : State)

/-! ### Answering a command -/

@[simp] theorem State.respond_live (st : Status) (r : List Byte) : (s.respond st r).live = s.live := rfl
@[simp] theorem State.respond_appCmd (st : Status) (r : List Byte) : (s.respond st r).appCmd = s.appCmd := rfl
@[simp] theorem State.respond_cfg (st : Status) (r : List Byte) : (s.respond st r).cfg = s.cfg := rfl
@[simp] theorem State.respond_tx (st : Status) (r : List Byte) : (s.respond st r).tx = s.tx := rfl
@[simp] theorem State.respond_rx (st : Status) (r : List Byte) : (s.respond st r).rx = s.rx := rfl
@[simp] theorem State.respond_rd (st : Status) (r : List Byte) : (s.respond st r).rd = s.rd := rfl
@[simp] theorem State.respond_ub (st : Status) (r : List Byte) : (s.respond st r).ub = s.ub := rfl
@[simp] theorem State.respond_latch (st : Status) (r : List Byte) : (s.respond st r).latch = s.latch := rfl
@[simp] theorem State.respond_env (st : Status) (r : List Byte) : (s.respond st r).env = s.env := rfl
@[simp] theorem State.respond_io (st : Status) (r : List Byte) :
    (s.respond st r).io = { s.io with cmdOut := s.io.cmdOut ++ [st.code :: r] } := rfl
@[simp] theorem State.respond_free (st : Status) (r : List Byte) : (s.respond st r).free = s.free := rfl

/-! ### A diagnostic record -/

@[simp] theorem State.diag_live (c : Status) (info : List Nat) : (s.diag c info).live = s.live := rfl
@[simp] theorem State.diag_appCmd (c : Status) (info : List Nat) : (s.diag c info).appCmd = s.appCmd := rfl
@[simp] theorem State.diag_cfg (c : Status) (info : List Nat) : (s.diag c info).cfg = s.cfg := rfl
@[simp] theorem State.diag_tx (c : Status) (info : List Nat) : (s.diag c info).tx = s.tx := rfl
@[simp] theorem State.diag_rx (c : Status) (info : List Nat) : (s.diag c info).rx = s.rx := rfl
@[simp] theorem State.diag_rd (c : Status) (info : List Nat) : (s.diag c info).rd = s.rd := rfl
@[simp] theorem State.diag_ub (c : Status) (info : List Nat) : (s.diag c info).ub = s.ub := rfl
@[simp] theorem State.diag_latch (c : Status) (info : List Nat) : (s.diag c info).latch = s.latch := rfl
@[simp] theorem State.diag_env (c : Status) (info : List Nat) : (s.diag c info).env = s.env := rfl
@[simp] theorem State.diag_io (c : Status) (info : List Nat) :
    (s.diag c info).io = { s.io with diag := s.io.diag ++ [⟨c, info⟩] } := rfl
@[simp] theorem State.diag_free (c : Status) (info : List Nat) : (s.diag c info).free = s.free := rfl

/-! ### A call of `transmit` -/

@[simp] theorem State.transmit_live : (s.transmit).live = s.live := rfl
@[simp] theorem State.transmit_appCmd : (s.transmit).appCmd = s.appCmd := rfl
@[simp] theorem State.transmit_cfg : (s.transmit).cfg = s.cfg := rfl
@[simp] theorem State.transmit_tx : (s.transmit).tx = s.tx := rfl
@[simp] theorem State.transmit_rx : (s.transmit).rx = s.rx := rfl
@[simp] theorem State.transmit_rd : (s.transmit).rd = s.rd := rfl
@[simp] theorem State.transmit_ub : (s.transmit).ub = s.ub := rfl
@[simp] theorem State.transmit_latch : (s.transmit).latch = s.latch := rfl
@[simp] theorem State.transmit_env :
    (s.transmit).env = { s.env with inflight := if s.io.txAnswer then s.env.inflight ++ [s.tx.frameBytes] else s.env.inflight } := rfl
@[simp] theorem State.transmit_io :
    (s.transmit).io = { s.io with txCalls := s.io.txCalls ++ [⟨s.tx.frameBytes, s.io.txAnswer⟩] } := rfl
@[simp] theorem State.transmit_free : (s.transmit).free = s.free := rfl

/-! ### A call of `receiveNext` -/

@[simp] theorem State.pullFrame_live : (s.pullFrame).live = s.live := rfl
@[simp] theorem State.pullFrame_appCmd : (s.pullFrame).appCmd = s.appCmd := rfl
@[simp] theorem State.pullFrame_cfg : (s.pullFrame).cfg = s.cfg := rfl
@[simp] theorem State.pullFrame_tx : (s.pullFrame).tx = s.tx := rfl
@[simp] theorem State.pullFrame_rx : (s.pullFrame).rx = s.rx := rfl
@[simp] theorem State.pullFrame_rd : (s.pullFrame).rd = s.rd := rfl
@[simp] theorem State.pullFrame_ub : (s.pullFrame).ub = s.ub := rfl
@[simp] theorem State.pullFrame_latch : (s.pullFrame).latch = s.latch := rfl
@[simp] theorem State.pullFrame_env : (s.pullFrame).env = { s.env with inq := s.env.inq.tail } := rfl
@[simp] theorem State.pullFrame_io : (s.pullFrame).io = { s.io with rxCalls := s.io.rxCalls + 1 } := rfl
@[simp] theorem State.pullFrame_free : (s.pullFrame).free = s.free := rfl

/-! ### A report of the radio agent -/

@[simp] theorem State.reportAttempt_live : (s.reportAttempt).live = s.live := rfl
@[simp] theorem State.reportAttempt_appCmd : (s.reportAttempt).appCmd = s.appCmd := rfl
@[simp] theorem State.reportAttempt_cfg : (s.reportAttempt).cfg = s.cfg := rfl
@[simp] theorem State.reportAttempt_tx : (s.reportAttempt).tx = s.tx := rfl
@[simp] theorem State.reportAttempt_rx : (s.reportAttempt).rx = s.rx := rfl
@[simp] theorem State.reportAttempt_rd : (s.reportAttempt).rd = s.rd := rfl
@[simp] theorem State.reportAttempt_ub : (s.reportAttempt).ub = s.ub := rfl
@[simp] theorem State.reportAttempt_latch : (s.reportAttempt).latch = s.latch := rfl
@[simp] theorem State.reportAttempt_env :
    (s.reportAttempt).env = { s.env with inflight := s.env.inflight.eraseIdx (Config.reportedAttempt s.free) } := rfl
@[simp] theorem State.reportAttempt_io : (s.reportAttempt).io = s.io := rfl
@[simp] theorem State.reportAttempt_free : (s.reportAttempt).free = s.free + 1 := rfl

/-! ### A frame reaching the radio agent's queue -/

@[simp] theorem State.enqueue_live (f : InFrame) : (s.enqueue f).live = s.live := rfl
@[simp] theorem State.enqueue_appCmd (f : InFrame) : (s.enqueue f).appCmd = s.appCmd := rfl
@[simp] theorem State.enqueue_cfg (f : InFrame) : (s.enqueue f).cfg = s.cfg := rfl
@[simp] theorem State.enqueue_tx (f : InFrame) : (s.enqueue f).tx = s.tx := rfl
@[simp] theorem State.enqueue_rx (f : InFrame) : (s.enqueue f).rx = s.rx := rfl
@[simp] theorem State.enqueue_rd (f : InFrame) : (s.enqueue f).rd = s.rd := rfl
@[simp] theorem State.enqueue_ub (f : InFrame) : (s.enqueue f).ub = s.ub := rfl
@[simp] theorem State.enqueue_latch (f : InFrame) : (s.enqueue f).latch = s.latch := rfl
@[simp] theorem State.enqueue_env (f : InFrame) :
    (s.enqueue f).env = { s.env with inq := s.env.inq ++ [f] } := rfl
@[simp] theorem State.enqueue_io (f : InFrame) : (s.enqueue f).io = s.io := rfl
@[simp] theorem State.enqueue_free (f : InFrame) : (s.enqueue f).free = s.free := rfl

/-! ### Arming the acknowledgment timer -/

@[simp] theorem State.setAckTimer_live : (s.setAckTimer).live = s.live := rfl
@[simp] theorem State.setAckTimer_appCmd : (s.setAckTimer).appCmd = s.appCmd := rfl
@[simp] theorem State.setAckTimer_cfg : (s.setAckTimer).cfg = s.cfg := rfl
@[simp] theorem State.setAckTimer_tx : (s.setAckTimer).tx = { s.tx with ackTimerArmed := true } := rfl
@[simp] theorem State.setAckTimer_rx : (s.setAckTimer).rx = s.rx := rfl
@[simp] theorem State.setAckTimer_rd : (s.setAckTimer).rd = s.rd := rfl
@[simp] theorem State.setAckTimer_ub : (s.setAckTimer).ub = s.ub := rfl
@[simp] theorem State.setAckTimer_latch : (s.setAckTimer).latch = s.latch := rfl
@[simp] theorem State.setAckTimer_env :
    (s.setAckTimer).env = { s.env with ackDuration := s.cfg.ackWait.toNat + Config.ackMargin } := rfl
@[simp] theorem State.setAckTimer_io : (s.setAckTimer).io = s.io := rfl
@[simp] theorem State.setAckTimer_free : (s.setAckTimer).free = s.free := rfl

/-! ### Arming the retry delay -/

@[simp] theorem State.setDelayTimer_live : (s.setDelayTimer).live = s.live := rfl
@[simp] theorem State.setDelayTimer_appCmd : (s.setDelayTimer).appCmd = s.appCmd := rfl
@[simp] theorem State.setDelayTimer_cfg : (s.setDelayTimer).cfg = s.cfg := rfl
@[simp] theorem State.setDelayTimer_tx : (s.setDelayTimer).tx = { s.tx with delayArmed := true } := rfl
@[simp] theorem State.setDelayTimer_rx : (s.setDelayTimer).rx = s.rx := rfl
@[simp] theorem State.setDelayTimer_rd : (s.setDelayTimer).rd = s.rd := rfl
@[simp] theorem State.setDelayTimer_ub : (s.setDelayTimer).ub = s.ub := rfl
@[simp] theorem State.setDelayTimer_latch : (s.setDelayTimer).latch = s.latch := rfl
@[simp] theorem State.setDelayTimer_env :
    (s.setDelayTimer).env = { s.env with delayDuration := s.cfg.retryDelay.toNat } := rfl
@[simp] theorem State.setDelayTimer_io : (s.setDelayTimer).io = s.io := rfl
@[simp] theorem State.setDelayTimer_free : (s.setDelayTimer).free = s.free := rfl

/-! ### Arming the read timer -/

@[simp] theorem State.setReadTimer_live (d : Word32) : (s.setReadTimer d).live = s.live := rfl
@[simp] theorem State.setReadTimer_appCmd (d : Word32) : (s.setReadTimer d).appCmd = s.appCmd := rfl
@[simp] theorem State.setReadTimer_cfg (d : Word32) : (s.setReadTimer d).cfg = s.cfg := rfl
@[simp] theorem State.setReadTimer_tx (d : Word32) : (s.setReadTimer d).tx = s.tx := rfl
@[simp] theorem State.setReadTimer_rx (d : Word32) : (s.setReadTimer d).rx = s.rx := rfl
@[simp] theorem State.setReadTimer_rd (d : Word32) :
    (s.setReadTimer d).rd = { s.rd with timerArmed := true } := rfl
@[simp] theorem State.setReadTimer_ub (d : Word32) : (s.setReadTimer d).ub = s.ub := rfl
@[simp] theorem State.setReadTimer_latch (d : Word32) : (s.setReadTimer d).latch = s.latch := rfl
@[simp] theorem State.setReadTimer_env (d : Word32) :
    (s.setReadTimer d).env = { s.env with readDuration := d.toNat } := rfl
@[simp] theorem State.setReadTimer_io (d : Word32) : (s.setReadTimer d).io = s.io := rfl
@[simp] theorem State.setReadTimer_free (d : Word32) : (s.setReadTimer d).free = s.free := rfl

/-! ### Writing `ARQ_STATE` -/

@[simp] theorem State.setArq_live (a : ArqState) : (s.setArq a).live = s.live := rfl
@[simp] theorem State.setArq_appCmd (a : ArqState) : (s.setArq a).appCmd = s.appCmd := rfl
@[simp] theorem State.setArq_cfg (a : ArqState) : (s.setArq a).cfg = s.cfg := rfl
@[simp] theorem State.setArq_tx (a : ArqState) : (s.setArq a).tx = { s.tx with arqState := a } := rfl
@[simp] theorem State.setArq_rx (a : ArqState) : (s.setArq a).rx = s.rx := rfl
@[simp] theorem State.setArq_rd (a : ArqState) : (s.setArq a).rd = s.rd := rfl
@[simp] theorem State.setArq_ub (a : ArqState) : (s.setArq a).ub = s.ub := rfl
@[simp] theorem State.setArq_latch (a : ArqState) : (s.setArq a).latch = s.latch := rfl
@[simp] theorem State.setArq_env (a : ArqState) : (s.setArq a).env = s.env := rfl
@[simp] theorem State.setArq_io (a : ArqState) : (s.setArq a).io = s.io := rfl
@[simp] theorem State.setArq_free (a : ArqState) : (s.setArq a).free = s.free := rfl

/-! ### The end of a wait -/

@[simp] theorem State.endWait_live (a : ArqState) : (s.endWait a).live = s.live := rfl
@[simp] theorem State.endWait_appCmd (a : ArqState) : (s.endWait a).appCmd = s.appCmd := rfl
@[simp] theorem State.endWait_cfg (a : ArqState) : (s.endWait a).cfg = s.cfg := rfl
@[simp] theorem State.endWait_tx (a : ArqState) :
    (s.endWait a).tx = { s.tx with arqState := a, ackTimerArmed := false } := rfl
@[simp] theorem State.endWait_rx (a : ArqState) : (s.endWait a).rx = s.rx := rfl
@[simp] theorem State.endWait_rd (a : ArqState) : (s.endWait a).rd = s.rd := rfl
@[simp] theorem State.endWait_ub (a : ArqState) : (s.endWait a).ub = s.ub := rfl
@[simp] theorem State.endWait_latch (a : ArqState) : (s.endWait a).latch = s.latch := rfl
@[simp] theorem State.endWait_env (a : ArqState) : (s.endWait a).env = s.env := rfl
@[simp] theorem State.endWait_io (a : ArqState) : (s.endWait a).io = s.io := rfl
@[simp] theorem State.endWait_free (a : ArqState) : (s.endWait a).free = s.free := rfl

/-! ### Advancing `OUT_SEQ` -/

@[simp] theorem State.advanceSeq_live : (s.advanceSeq).live = s.live := rfl
@[simp] theorem State.advanceSeq_appCmd : (s.advanceSeq).appCmd = s.appCmd := rfl
@[simp] theorem State.advanceSeq_cfg : (s.advanceSeq).cfg = s.cfg := rfl
@[simp] theorem State.advanceSeq_tx : (s.advanceSeq).tx = { s.tx with outSeq := s.tx.outSeq + 1 } := rfl
@[simp] theorem State.advanceSeq_rx : (s.advanceSeq).rx = s.rx := rfl
@[simp] theorem State.advanceSeq_rd : (s.advanceSeq).rd = s.rd := rfl
@[simp] theorem State.advanceSeq_ub : (s.advanceSeq).ub = s.ub := rfl
@[simp] theorem State.advanceSeq_latch : (s.advanceSeq).latch = s.latch := rfl
@[simp] theorem State.advanceSeq_env : (s.advanceSeq).env = s.env := rfl
@[simp] theorem State.advanceSeq_io : (s.advanceSeq).io = s.io := rfl
@[simp] theorem State.advanceSeq_free : (s.advanceSeq).free = s.free := rfl

/-! ### Replacing TXB -/

@[simp] theorem State.setTxb_live (rb : RingBuffer) : (s.setTxb rb).live = s.live := rfl
@[simp] theorem State.setTxb_appCmd (rb : RingBuffer) : (s.setTxb rb).appCmd = s.appCmd := rfl
@[simp] theorem State.setTxb_cfg (rb : RingBuffer) : (s.setTxb rb).cfg = s.cfg := rfl
@[simp] theorem State.setTxb_tx (rb : RingBuffer) : (s.setTxb rb).tx = { s.tx with txb := rb } := rfl
@[simp] theorem State.setTxb_rx (rb : RingBuffer) : (s.setTxb rb).rx = s.rx := rfl
@[simp] theorem State.setTxb_rd (rb : RingBuffer) : (s.setTxb rb).rd = s.rd := rfl
@[simp] theorem State.setTxb_ub (rb : RingBuffer) : (s.setTxb rb).ub = s.ub := rfl
@[simp] theorem State.setTxb_latch (rb : RingBuffer) : (s.setTxb rb).latch = s.latch := rfl
@[simp] theorem State.setTxb_env (rb : RingBuffer) : (s.setTxb rb).env = s.env := rfl
@[simp] theorem State.setTxb_io (rb : RingBuffer) : (s.setTxb rb).io = s.io := rfl
@[simp] theorem State.setTxb_free (rb : RingBuffer) : (s.setTxb rb).free = s.free := rfl

/-! ### Replacing RXB -/

@[simp] theorem State.setRxb_live (rb : RingBuffer) : (s.setRxb rb).live = s.live := rfl
@[simp] theorem State.setRxb_appCmd (rb : RingBuffer) : (s.setRxb rb).appCmd = s.appCmd := rfl
@[simp] theorem State.setRxb_cfg (rb : RingBuffer) : (s.setRxb rb).cfg = s.cfg := rfl
@[simp] theorem State.setRxb_tx (rb : RingBuffer) : (s.setRxb rb).tx = s.tx := rfl
@[simp] theorem State.setRxb_rx (rb : RingBuffer) : (s.setRxb rb).rx = { s.rx with rxb := rb } := rfl
@[simp] theorem State.setRxb_rd (rb : RingBuffer) : (s.setRxb rb).rd = s.rd := rfl
@[simp] theorem State.setRxb_ub (rb : RingBuffer) : (s.setRxb rb).ub = s.ub := rfl
@[simp] theorem State.setRxb_latch (rb : RingBuffer) : (s.setRxb rb).latch = s.latch := rfl
@[simp] theorem State.setRxb_env (rb : RingBuffer) : (s.setRxb rb).env = s.env := rfl
@[simp] theorem State.setRxb_io (rb : RingBuffer) : (s.setRxb rb).io = s.io := rfl
@[simp] theorem State.setRxb_free (rb : RingBuffer) : (s.setRxb rb).free = s.free := rfl

/-! ### Replacing UB -/

@[simp] theorem State.setUb_live (rb : RingBuffer) : (s.setUb rb).live = s.live := rfl
@[simp] theorem State.setUb_appCmd (rb : RingBuffer) : (s.setUb rb).appCmd = s.appCmd := rfl
@[simp] theorem State.setUb_cfg (rb : RingBuffer) : (s.setUb rb).cfg = s.cfg := rfl
@[simp] theorem State.setUb_tx (rb : RingBuffer) : (s.setUb rb).tx = s.tx := rfl
@[simp] theorem State.setUb_rx (rb : RingBuffer) : (s.setUb rb).rx = s.rx := rfl
@[simp] theorem State.setUb_rd (rb : RingBuffer) : (s.setUb rb).rd = s.rd := rfl
@[simp] theorem State.setUb_ub (rb : RingBuffer) : (s.setUb rb).ub = rb := rfl
@[simp] theorem State.setUb_latch (rb : RingBuffer) : (s.setUb rb).latch = s.latch := rfl
@[simp] theorem State.setUb_env (rb : RingBuffer) : (s.setUb rb).env = s.env := rfl
@[simp] theorem State.setUb_io (rb : RingBuffer) : (s.setUb rb).io = s.io := rfl
@[simp] theorem State.setUb_free (rb : RingBuffer) : (s.setUb rb).free = s.free := rfl

/-! ### Writing `APP_CMD` -/

@[simp] theorem State.setAppCmd_live (c : AppCmd) : (s.setAppCmd c).live = s.live := rfl
@[simp] theorem State.setAppCmd_appCmd (c : AppCmd) : (s.setAppCmd c).appCmd = c := rfl
@[simp] theorem State.setAppCmd_cfg (c : AppCmd) : (s.setAppCmd c).cfg = s.cfg := rfl
@[simp] theorem State.setAppCmd_tx (c : AppCmd) : (s.setAppCmd c).tx = s.tx := rfl
@[simp] theorem State.setAppCmd_rx (c : AppCmd) : (s.setAppCmd c).rx = s.rx := rfl
@[simp] theorem State.setAppCmd_rd (c : AppCmd) : (s.setAppCmd c).rd = s.rd := rfl
@[simp] theorem State.setAppCmd_ub (c : AppCmd) : (s.setAppCmd c).ub = s.ub := rfl
@[simp] theorem State.setAppCmd_latch (c : AppCmd) : (s.setAppCmd c).latch = s.latch := rfl
@[simp] theorem State.setAppCmd_env (c : AppCmd) : (s.setAppCmd c).env = s.env := rfl
@[simp] theorem State.setAppCmd_io (c : AppCmd) : (s.setAppCmd c).io = s.io := rfl
@[simp] theorem State.setAppCmd_free (c : AppCmd) : (s.setAppCmd c).free = s.free := rfl

/-! ### Replacing the latches -/

@[simp] theorem State.setLatch_live (l : Latches) : (s.setLatch l).live = s.live := rfl
@[simp] theorem State.setLatch_appCmd (l : Latches) : (s.setLatch l).appCmd = s.appCmd := rfl
@[simp] theorem State.setLatch_cfg (l : Latches) : (s.setLatch l).cfg = s.cfg := rfl
@[simp] theorem State.setLatch_tx (l : Latches) : (s.setLatch l).tx = s.tx := rfl
@[simp] theorem State.setLatch_rx (l : Latches) : (s.setLatch l).rx = s.rx := rfl
@[simp] theorem State.setLatch_rd (l : Latches) : (s.setLatch l).rd = s.rd := rfl
@[simp] theorem State.setLatch_ub (l : Latches) : (s.setLatch l).ub = s.ub := rfl
@[simp] theorem State.setLatch_latch (l : Latches) : (s.setLatch l).latch = l := rfl
@[simp] theorem State.setLatch_env (l : Latches) : (s.setLatch l).env = s.env := rfl
@[simp] theorem State.setLatch_io (l : Latches) : (s.setLatch l).io = s.io := rfl
@[simp] theorem State.setLatch_free (l : Latches) : (s.setLatch l).free = s.free := rfl

/-! ### Session start and end -/

@[simp] theorem State.setSession_live (b : Bool) (c d : Nat) (q : Byte) : (s.setSession b c d q).live = b := rfl
@[simp] theorem State.setSession_appCmd (b : Bool) (c d : Nat) (q : Byte) :
    (s.setSession b c d q).appCmd = .none := rfl
@[simp] theorem State.setSession_cfg (b : Bool) (c d : Nat) (q : Byte) :
    (s.setSession b c d q).cfg = s.cfg := rfl
@[simp] theorem State.setSession_tx (b : Bool) (c d : Nat) (q : Byte) :
    (s.setSession b c d q).tx = .fresh c q := rfl
@[simp] theorem State.setSession_rx (b : Bool) (c d : Nat) (q : Byte) :
    (s.setSession b c d q).rx = .fresh d s.free := rfl
@[simp] theorem State.setSession_rd (b : Bool) (c d : Nat) (q : Byte) :
    (s.setSession b c d q).rd = .reset := rfl
@[simp] theorem State.setSession_ub (b : Bool) (c d : Nat) (q : Byte) : (s.setSession b c d q).ub = s.ub := rfl
@[simp] theorem State.setSession_latch (b : Bool) (c d : Nat) (q : Byte) :
    (s.setSession b c d q).latch = .clear := rfl
@[simp] theorem State.setSession_env (b : Bool) (c d : Nat) (q : Byte) :
    (s.setSession b c d q).env = s.env := rfl
@[simp] theorem State.setSession_io (b : Bool) (c d : Nat) (q : Byte) : (s.setSession b c d q).io = s.io := rfl
@[simp] theorem State.setSession_free (b : Bool) (c d : Nat) (q : Byte) :
    (s.setSession b c d q).free = s.free + 1 := rfl

/-! ### The reset input -/

@[simp] theorem State.hardReset_live : (s.hardReset).live = false := rfl
@[simp] theorem State.hardReset_appCmd : (s.hardReset).appCmd = .none := rfl
@[simp] theorem State.hardReset_cfg : (s.hardReset).cfg = .free s.free := rfl
@[simp] theorem State.hardReset_tx : (s.hardReset).tx = .fresh 0 0 := rfl
@[simp] theorem State.hardReset_rx : (s.hardReset).rx = .fresh 0 s.free := rfl
@[simp] theorem State.hardReset_rd : (s.hardReset).rd = .reset := rfl
@[simp] theorem State.hardReset_ub : (s.hardReset).ub = .empty := rfl
@[simp] theorem State.hardReset_latch : (s.hardReset).latch = .clear := rfl
@[simp] theorem State.hardReset_env : (s.hardReset).env = s.env := rfl
@[simp] theorem State.hardReset_io : (s.hardReset).io = s.io := rfl
@[simp] theorem State.hardReset_free : (s.hardReset).free = s.free + 1 := rfl

/-! ### Loading TXFRAME -/

@[simp] theorem State.loadFrame_live (out : List Byte) : (s.loadFrame out).live = s.live := rfl
@[simp] theorem State.loadFrame_appCmd (out : List Byte) : (s.loadFrame out).appCmd = s.appCmd := rfl
@[simp] theorem State.loadFrame_cfg (out : List Byte) : (s.loadFrame out).cfg = s.cfg := rfl
@[simp] theorem State.loadFrame_tx (out : List Byte) :
    (s.loadFrame out).tx = { s.tx with txFrame := s.tx.txFrame.writeBytes 0 out, txFrameLen := out.length } := rfl
@[simp] theorem State.loadFrame_rx (out : List Byte) : (s.loadFrame out).rx = s.rx := rfl
@[simp] theorem State.loadFrame_rd (out : List Byte) : (s.loadFrame out).rd = s.rd := rfl
@[simp] theorem State.loadFrame_ub (out : List Byte) : (s.loadFrame out).ub = s.ub := rfl
@[simp] theorem State.loadFrame_latch (out : List Byte) : (s.loadFrame out).latch = s.latch := rfl
@[simp] theorem State.loadFrame_env (out : List Byte) : (s.loadFrame out).env = s.env := rfl
@[simp] theorem State.loadFrame_io (out : List Byte) : (s.loadFrame out).io = s.io := rfl
@[simp] theorem State.loadFrame_free (out : List Byte) : (s.loadFrame out).free = s.free := rfl

/-! ### Asking for `DRAIN` -/

@[simp] theorem State.requestDrain_live : (s.requestDrain).live = s.live := rfl
@[simp] theorem State.requestDrain_appCmd : (s.requestDrain).appCmd = s.appCmd := rfl
@[simp] theorem State.requestDrain_cfg : (s.requestDrain).cfg = s.cfg := rfl
@[simp] theorem State.requestDrain_tx : (s.requestDrain).tx = s.tx := rfl
@[simp] theorem State.requestDrain_rx : (s.requestDrain).rx = s.rx := rfl
@[simp] theorem State.requestDrain_rd : (s.requestDrain).rd = s.rd := rfl
@[simp] theorem State.requestDrain_ub : (s.requestDrain).ub = s.ub := rfl
@[simp] theorem State.requestDrain_latch : (s.requestDrain).latch = { s.latch with drainReq := true } := rfl
@[simp] theorem State.requestDrain_env : (s.requestDrain).env = s.env := rfl
@[simp] theorem State.requestDrain_io : (s.requestDrain).io = s.io := rfl
@[simp] theorem State.requestDrain_free : (s.requestDrain).free = s.free := rfl

/-! ### `DRAIN` -/

@[simp] theorem State.drainTxb_live : (s.drainTxb).live = s.live := rfl
@[simp] theorem State.drainTxb_appCmd : (s.drainTxb).appCmd = s.appCmd := rfl
@[simp] theorem State.drainTxb_cfg : (s.drainTxb).cfg = s.cfg := rfl
@[simp] theorem State.drainTxb_tx :
    (s.drainTxb).tx = { s.tx with txb := s.tx.txb.consume (min s.tx.txb.count Config.mtu) } := rfl
@[simp] theorem State.drainTxb_rx : (s.drainTxb).rx = s.rx := rfl
@[simp] theorem State.drainTxb_rd : (s.drainTxb).rd = s.rd := rfl
@[simp] theorem State.drainTxb_ub : (s.drainTxb).ub = s.ub := rfl
@[simp] theorem State.drainTxb_latch :
    (s.drainTxb).latch = { s.latch with drainReq := false, chunk := some (s.tx.txb.front (min s.tx.txb.count Config.mtu)) } := rfl
@[simp] theorem State.drainTxb_env : (s.drainTxb).env = s.env := rfl
@[simp] theorem State.drainTxb_io : (s.drainTxb).io = s.io := rfl
@[simp] theorem State.drainTxb_free : (s.drainTxb).free = s.free := rfl

/-! ### Taking the chunk -/

@[simp] theorem State.takeChunk_live : (s.takeChunk).live = s.live := rfl
@[simp] theorem State.takeChunk_appCmd : (s.takeChunk).appCmd = s.appCmd := rfl
@[simp] theorem State.takeChunk_cfg : (s.takeChunk).cfg = s.cfg := rfl
@[simp] theorem State.takeChunk_tx : (s.takeChunk).tx = s.tx := rfl
@[simp] theorem State.takeChunk_rx : (s.takeChunk).rx = s.rx := rfl
@[simp] theorem State.takeChunk_rd : (s.takeChunk).rd = s.rd := rfl
@[simp] theorem State.takeChunk_ub : (s.takeChunk).ub = s.ub := rfl
@[simp] theorem State.takeChunk_latch : (s.takeChunk).latch = { s.latch with chunk := none } := rfl
@[simp] theorem State.takeChunk_env : (s.takeChunk).env = s.env := rfl
@[simp] theorem State.takeChunk_io : (s.takeChunk).io = s.io := rfl
@[simp] theorem State.takeChunk_free : (s.takeChunk).free = s.free := rfl

/-! ### The set-up of a confirmed send -/

@[simp] theorem State.armSend_live : (s.armSend).live = s.live := rfl
@[simp] theorem State.armSend_appCmd : (s.armSend).appCmd = s.appCmd := rfl
@[simp] theorem State.armSend_cfg : (s.armSend).cfg = s.cfg := rfl
@[simp] theorem State.armSend_tx :
    (s.armSend).tx = { s.tx with retriesLeft := s.cfg.retryCount.toNat, sendActive := true } := rfl
@[simp] theorem State.armSend_rx : (s.armSend).rx = s.rx := rfl
@[simp] theorem State.armSend_rd : (s.armSend).rd = s.rd := rfl
@[simp] theorem State.armSend_ub : (s.armSend).ub = s.ub := rfl
@[simp] theorem State.armSend_latch : (s.armSend).latch = s.latch := rfl
@[simp] theorem State.armSend_env : (s.armSend).env = s.env := rfl
@[simp] theorem State.armSend_io : (s.armSend).io = s.io := rfl
@[simp] theorem State.armSend_free : (s.armSend).free = s.free := rfl

/-! ### The end of a confirmed send -/

@[simp] theorem State.endSend_live : (s.endSend).live = s.live := rfl
@[simp] theorem State.endSend_appCmd : (s.endSend).appCmd = s.appCmd := rfl
@[simp] theorem State.endSend_cfg : (s.endSend).cfg = s.cfg := rfl
@[simp] theorem State.endSend_tx : (s.endSend).tx = { s.tx with arqState := .idle, sendActive := false } := rfl
@[simp] theorem State.endSend_rx : (s.endSend).rx = s.rx := rfl
@[simp] theorem State.endSend_rd : (s.endSend).rd = s.rd := rfl
@[simp] theorem State.endSend_ub : (s.endSend).ub = s.ub := rfl
@[simp] theorem State.endSend_latch : (s.endSend).latch = s.latch := rfl
@[simp] theorem State.endSend_env : (s.endSend).env = s.env := rfl
@[simp] theorem State.endSend_io : (s.endSend).io = s.io := rfl
@[simp] theorem State.endSend_free : (s.endSend).free = s.free := rfl

/-! ### Writing `RETRIES_LEFT` -/

@[simp] theorem State.setRetries_live (n : Nat) : (s.setRetries n).live = s.live := rfl
@[simp] theorem State.setRetries_appCmd (n : Nat) : (s.setRetries n).appCmd = s.appCmd := rfl
@[simp] theorem State.setRetries_cfg (n : Nat) : (s.setRetries n).cfg = s.cfg := rfl
@[simp] theorem State.setRetries_tx (n : Nat) : (s.setRetries n).tx = { s.tx with retriesLeft := n } := rfl
@[simp] theorem State.setRetries_rx (n : Nat) : (s.setRetries n).rx = s.rx := rfl
@[simp] theorem State.setRetries_rd (n : Nat) : (s.setRetries n).rd = s.rd := rfl
@[simp] theorem State.setRetries_ub (n : Nat) : (s.setRetries n).ub = s.ub := rfl
@[simp] theorem State.setRetries_latch (n : Nat) : (s.setRetries n).latch = s.latch := rfl
@[simp] theorem State.setRetries_env (n : Nat) : (s.setRetries n).env = s.env := rfl
@[simp] theorem State.setRetries_io (n : Nat) : (s.setRetries n).io = s.io := rfl
@[simp] theorem State.setRetries_free (n : Nat) : (s.setRetries n).free = s.free := rfl

/-! ### Latching the metadata -/

@[simp] theorem State.latchMeta_live (f : InFrame) : (s.latchMeta f).live = s.live := rfl
@[simp] theorem State.latchMeta_appCmd (f : InFrame) : (s.latchMeta f).appCmd = s.appCmd := rfl
@[simp] theorem State.latchMeta_cfg (f : InFrame) : (s.latchMeta f).cfg = s.cfg := rfl
@[simp] theorem State.latchMeta_tx (f : InFrame) : (s.latchMeta f).tx = s.tx := rfl
@[simp] theorem State.latchMeta_rx (f : InFrame) :
    (s.latchMeta f).rx = { s.rx with rssi := f.rssi, lqi := f.lqi, channel := f.channel, metaValid := true } := rfl
@[simp] theorem State.latchMeta_rd (f : InFrame) : (s.latchMeta f).rd = s.rd := rfl
@[simp] theorem State.latchMeta_ub (f : InFrame) : (s.latchMeta f).ub = s.ub := rfl
@[simp] theorem State.latchMeta_latch (f : InFrame) : (s.latchMeta f).latch = s.latch := rfl
@[simp] theorem State.latchMeta_env (f : InFrame) : (s.latchMeta f).env = s.env := rfl
@[simp] theorem State.latchMeta_io (f : InFrame) : (s.latchMeta f).io = s.io := rfl
@[simp] theorem State.latchMeta_free (f : InFrame) : (s.latchMeta f).free = s.free := rfl

/-! ### Handing a frame to `SEQ_VALIDATE` -/

@[simp] theorem State.offerFrame_live (f : Frame) : (s.offerFrame f).live = s.live := rfl
@[simp] theorem State.offerFrame_appCmd (f : Frame) : (s.offerFrame f).appCmd = s.appCmd := rfl
@[simp] theorem State.offerFrame_cfg (f : Frame) : (s.offerFrame f).cfg = s.cfg := rfl
@[simp] theorem State.offerFrame_tx (f : Frame) : (s.offerFrame f).tx = s.tx := rfl
@[simp] theorem State.offerFrame_rx (f : Frame) : (s.offerFrame f).rx = s.rx := rfl
@[simp] theorem State.offerFrame_rd (f : Frame) : (s.offerFrame f).rd = s.rd := rfl
@[simp] theorem State.offerFrame_ub (f : Frame) : (s.offerFrame f).ub = s.ub := rfl
@[simp] theorem State.offerFrame_latch (f : Frame) :
    (s.offerFrame f).latch = { s.latch with rxFrame := some f } := rfl
@[simp] theorem State.offerFrame_env (f : Frame) : (s.offerFrame f).env = s.env := rfl
@[simp] theorem State.offerFrame_io (f : Frame) : (s.offerFrame f).io = s.io := rfl
@[simp] theorem State.offerFrame_free (f : Frame) : (s.offerFrame f).free = s.free := rfl

/-! ### `SEQ_VALIDATE` -/

@[simp] theorem State.validateSeq_live (f : Frame) : (s.validateSeq f).live = s.live := rfl
@[simp] theorem State.validateSeq_appCmd (f : Frame) : (s.validateSeq f).appCmd = s.appCmd := rfl
@[simp] theorem State.validateSeq_cfg (f : Frame) : (s.validateSeq f).cfg = s.cfg := rfl
@[simp] theorem State.validateSeq_tx (f : Frame) : (s.validateSeq f).tx = s.tx := rfl
@[simp] theorem State.validateSeq_rx (f : Frame) : (s.validateSeq f).rx = seqRecord s.rx f := rfl
@[simp] theorem State.validateSeq_rd (f : Frame) : (s.validateSeq f).rd = s.rd := rfl
@[simp] theorem State.validateSeq_ub (f : Frame) : (s.validateSeq f).ub = s.ub := rfl
@[simp] theorem State.validateSeq_latch (f : Frame) :
    (s.validateSeq f).latch = { s.latch with rxFrame := none, verdict := some (seqVerdict s.rx f) } := rfl
@[simp] theorem State.validateSeq_env (f : Frame) : (s.validateSeq f).env = s.env := rfl
@[simp] theorem State.validateSeq_io (f : Frame) :
    (s.validateSeq f).io = { s.io with diag := s.io.diag ++ seqDiags s.rx f } := rfl
@[simp] theorem State.validateSeq_free (f : Frame) : (s.validateSeq f).free = s.free := rfl

/-! ### Taking the verdict -/

@[simp] theorem State.takeVerdict_live : (s.takeVerdict).live = s.live := rfl
@[simp] theorem State.takeVerdict_appCmd : (s.takeVerdict).appCmd = s.appCmd := rfl
@[simp] theorem State.takeVerdict_cfg : (s.takeVerdict).cfg = s.cfg := rfl
@[simp] theorem State.takeVerdict_tx : (s.takeVerdict).tx = s.tx := rfl
@[simp] theorem State.takeVerdict_rx : (s.takeVerdict).rx = s.rx := rfl
@[simp] theorem State.takeVerdict_rd : (s.takeVerdict).rd = s.rd := rfl
@[simp] theorem State.takeVerdict_ub : (s.takeVerdict).ub = s.ub := rfl
@[simp] theorem State.takeVerdict_latch : (s.takeVerdict).latch = { s.latch with verdict := none } := rfl
@[simp] theorem State.takeVerdict_env : (s.takeVerdict).env = s.env := rfl
@[simp] theorem State.takeVerdict_io : (s.takeVerdict).io = s.io := rfl
@[simp] theorem State.takeVerdict_free : (s.takeVerdict).free = s.free := rfl

/-! ### Holding a frame as pending -/

@[simp] theorem State.holdPending_live (p : List Byte) : (s.holdPending p).live = s.live := rfl
@[simp] theorem State.holdPending_appCmd (p : List Byte) : (s.holdPending p).appCmd = s.appCmd := rfl
@[simp] theorem State.holdPending_cfg (p : List Byte) : (s.holdPending p).cfg = s.cfg := rfl
@[simp] theorem State.holdPending_tx (p : List Byte) : (s.holdPending p).tx = s.tx := rfl
@[simp] theorem State.holdPending_rx (p : List Byte) :
    (s.holdPending p).rx = { s.rx with pendBuf := s.rx.pendBuf.writeBytes 0 p, pendLen := p.length, pendOff := 0, pendValid := true } := rfl
@[simp] theorem State.holdPending_rd (p : List Byte) : (s.holdPending p).rd = s.rd := rfl
@[simp] theorem State.holdPending_ub (p : List Byte) : (s.holdPending p).ub = s.ub := rfl
@[simp] theorem State.holdPending_latch (p : List Byte) : (s.holdPending p).latch = s.latch := rfl
@[simp] theorem State.holdPending_env (p : List Byte) : (s.holdPending p).env = s.env := rfl
@[simp] theorem State.holdPending_io (p : List Byte) : (s.holdPending p).io = s.io := rfl
@[simp] theorem State.holdPending_free (p : List Byte) : (s.holdPending p).free = s.free := rfl

/-! ### Collecting bytes for a read -/

@[simp] theorem State.collect_live : (s.collect).live = s.live := rfl
@[simp] theorem State.collect_appCmd : (s.collect).appCmd = s.appCmd := rfl
@[simp] theorem State.collect_cfg : (s.collect).cfg = s.cfg := rfl
@[simp] theorem State.collect_tx : (s.collect).tx = s.tx := rfl
@[simp] theorem State.collect_rx :
    (s.collect).rx = { s.rx with rxb := s.rx.rxb.consume (s.rd.want - s.rd.got) } := rfl
@[simp] theorem State.collect_rd :
    (s.collect).rd = { s.rd with data := s.rd.data ++ s.rx.rxb.front (s.rd.want - s.rd.got), got := s.rd.got + s.rx.rxb.holds (s.rd.want - s.rd.got) } := rfl
@[simp] theorem State.collect_ub : (s.collect).ub = s.ub := rfl
@[simp] theorem State.collect_latch : (s.collect).latch = s.latch := rfl
@[simp] theorem State.collect_env : (s.collect).env = s.env := rfl
@[simp] theorem State.collect_io : (s.collect).io = s.io := rfl
@[simp] theorem State.collect_free : (s.collect).free = s.free := rfl

/-! ### The end of a read -/

@[simp] theorem State.finishRead_live : (s.finishRead).live = s.live := rfl
@[simp] theorem State.finishRead_appCmd : (s.finishRead).appCmd = .none := rfl
@[simp] theorem State.finishRead_cfg : (s.finishRead).cfg = s.cfg := rfl
@[simp] theorem State.finishRead_tx : (s.finishRead).tx = s.tx := rfl
@[simp] theorem State.finishRead_rx : (s.finishRead).rx = s.rx := rfl
@[simp] theorem State.finishRead_rd :
    (s.finishRead).rd = { s.rd with active := false, timerArmed := false, expired := false } := rfl
@[simp] theorem State.finishRead_ub : (s.finishRead).ub = s.ub := rfl
@[simp] theorem State.finishRead_latch : (s.finishRead).latch = s.latch := rfl
@[simp] theorem State.finishRead_env : (s.finishRead).env = s.env := rfl
@[simp] theorem State.finishRead_io :
    (s.finishRead).io = { s.io with cmdOut := s.io.cmdOut ++ [Status.code .ok :: countedBytes s.rd.data] } := rfl
@[simp] theorem State.finishRead_free : (s.finishRead).free = s.free := rfl

/-! ### The first step of a read -/

@[simp] theorem State.beginRead_live (n : Nat) : (s.beginRead n).live = s.live := rfl
@[simp] theorem State.beginRead_appCmd (n : Nat) : (s.beginRead n).appCmd = s.appCmd := rfl
@[simp] theorem State.beginRead_cfg (n : Nat) : (s.beginRead n).cfg = s.cfg := rfl
@[simp] theorem State.beginRead_tx (n : Nat) : (s.beginRead n).tx = s.tx := rfl
@[simp] theorem State.beginRead_rx (n : Nat) :
    (s.beginRead n).rx = { s.rx with rxb := s.rx.rxb.consume n } := rfl
@[simp] theorem State.beginRead_rd (n : Nat) :
    (s.beginRead n).rd = { s.rd with want := n, expired := false, data := s.rx.rxb.front n, got := s.rx.rxb.holds n } := rfl
@[simp] theorem State.beginRead_ub (n : Nat) : (s.beginRead n).ub = s.ub := rfl
@[simp] theorem State.beginRead_latch (n : Nat) : (s.beginRead n).latch = s.latch := rfl
@[simp] theorem State.beginRead_env (n : Nat) : (s.beginRead n).env = s.env := rfl
@[simp] theorem State.beginRead_io (n : Nat) : (s.beginRead n).io = s.io := rfl
@[simp] theorem State.beginRead_free (n : Nat) : (s.beginRead n).free = s.free := rfl

/-! ### A read that must wait -/

@[simp] theorem State.waitForBytes_live (d : Word32) : (s.waitForBytes d).live = s.live := rfl
@[simp] theorem State.waitForBytes_appCmd (d : Word32) : (s.waitForBytes d).appCmd = .read := rfl
@[simp] theorem State.waitForBytes_cfg (d : Word32) : (s.waitForBytes d).cfg = s.cfg := rfl
@[simp] theorem State.waitForBytes_tx (d : Word32) : (s.waitForBytes d).tx = s.tx := rfl
@[simp] theorem State.waitForBytes_rx (d : Word32) : (s.waitForBytes d).rx = s.rx := rfl
@[simp] theorem State.waitForBytes_rd (d : Word32) :
    (s.waitForBytes d).rd = { s.rd with active := true, timerArmed := true } := rfl
@[simp] theorem State.waitForBytes_ub (d : Word32) : (s.waitForBytes d).ub = s.ub := rfl
@[simp] theorem State.waitForBytes_latch (d : Word32) : (s.waitForBytes d).latch = s.latch := rfl
@[simp] theorem State.waitForBytes_env (d : Word32) :
    (s.waitForBytes d).env = { s.env with readDuration := d.toNat } := rfl
@[simp] theorem State.waitForBytes_io (d : Word32) : (s.waitForBytes d).io = s.io := rfl
@[simp] theorem State.waitForBytes_free (d : Word32) : (s.waitForBytes d).free = s.free := rfl

/-! ### Taking a turn -/

@[simp] theorem State.startTurn_live (t : Turn) (r : List Turn) : (s.startTurn t r).live = s.live := rfl
@[simp] theorem State.startTurn_appCmd (t : Turn) (r : List Turn) : (s.startTurn t r).appCmd = s.appCmd := rfl
@[simp] theorem State.startTurn_cfg (t : Turn) (r : List Turn) : (s.startTurn t r).cfg = s.cfg := rfl
@[simp] theorem State.startTurn_tx (t : Turn) (r : List Turn) : (s.startTurn t r).tx = s.tx := rfl
@[simp] theorem State.startTurn_rx (t : Turn) (r : List Turn) : (s.startTurn t r).rx = s.rx := rfl
@[simp] theorem State.startTurn_rd (t : Turn) (r : List Turn) : (s.startTurn t r).rd = s.rd := rfl
@[simp] theorem State.startTurn_ub (t : Turn) (r : List Turn) : (s.startTurn t r).ub = s.ub := rfl
@[simp] theorem State.startTurn_latch (t : Turn) (r : List Turn) : (s.startTurn t r).latch = s.latch := rfl
@[simp] theorem State.startTurn_env (t : Turn) (r : List Turn) : (s.startTurn t r).env = s.env := rfl
@[simp] theorem State.startTurn_io (t : Turn) (r : List Turn) :
    (s.startTurn t r).io = { s.io with schedule := r, txAnswer := t.txAnswer } := rfl
@[simp] theorem State.startTurn_free (t : Turn) (r : List Turn) : (s.startTurn t r).free = s.free := rfl

/-! ### Replacing what waits on the command port -/

@[simp] theorem State.setCmdPort_live (m : List (List Byte)) : (s.setCmdPort m).live = s.live := rfl
@[simp] theorem State.setCmdPort_appCmd (m : List (List Byte)) : (s.setCmdPort m).appCmd = s.appCmd := rfl
@[simp] theorem State.setCmdPort_cfg (m : List (List Byte)) : (s.setCmdPort m).cfg = s.cfg := rfl
@[simp] theorem State.setCmdPort_tx (m : List (List Byte)) : (s.setCmdPort m).tx = s.tx := rfl
@[simp] theorem State.setCmdPort_rx (m : List (List Byte)) : (s.setCmdPort m).rx = s.rx := rfl
@[simp] theorem State.setCmdPort_rd (m : List (List Byte)) : (s.setCmdPort m).rd = s.rd := rfl
@[simp] theorem State.setCmdPort_ub (m : List (List Byte)) : (s.setCmdPort m).ub = s.ub := rfl
@[simp] theorem State.setCmdPort_latch (m : List (List Byte)) : (s.setCmdPort m).latch = s.latch := rfl
@[simp] theorem State.setCmdPort_env (m : List (List Byte)) : (s.setCmdPort m).env = s.env := rfl
@[simp] theorem State.setCmdPort_io (m : List (List Byte)) :
    (s.setCmdPort m).io = { s.io with cmdPort := m } := rfl
@[simp] theorem State.setCmdPort_free (m : List (List Byte)) : (s.setCmdPort m).free = s.free := rfl

/-! ### Replacing what waits on the event port -/

@[simp] theorem State.setEvPort_live (m : List (List Byte)) : (s.setEvPort m).live = s.live := rfl
@[simp] theorem State.setEvPort_appCmd (m : List (List Byte)) : (s.setEvPort m).appCmd = s.appCmd := rfl
@[simp] theorem State.setEvPort_cfg (m : List (List Byte)) : (s.setEvPort m).cfg = s.cfg := rfl
@[simp] theorem State.setEvPort_tx (m : List (List Byte)) : (s.setEvPort m).tx = s.tx := rfl
@[simp] theorem State.setEvPort_rx (m : List (List Byte)) : (s.setEvPort m).rx = s.rx := rfl
@[simp] theorem State.setEvPort_rd (m : List (List Byte)) : (s.setEvPort m).rd = s.rd := rfl
@[simp] theorem State.setEvPort_ub (m : List (List Byte)) : (s.setEvPort m).ub = s.ub := rfl
@[simp] theorem State.setEvPort_latch (m : List (List Byte)) : (s.setEvPort m).latch = s.latch := rfl
@[simp] theorem State.setEvPort_env (m : List (List Byte)) : (s.setEvPort m).env = s.env := rfl
@[simp] theorem State.setEvPort_io (m : List (List Byte)) :
    (s.setEvPort m).io = { s.io with evPort := m } := rfl
@[simp] theorem State.setEvPort_free (m : List (List Byte)) : (s.setEvPort m).free = s.free := rfl

end Sys2Proof.Machine
end

