-- ==== Sys2Proof/Laws/Transport.lean ====
section
/-! SUPPORT. What the shared operations of the transport and the gates in front of the commands do, each said
once. -/

namespace Sys2Proof.Machine

/-! ### Responses and gates -/

theorem State.respond_eq_replied (s : State) (st : Status) (r : List Byte) :
    s.respond st r = s.replied (st.code :: r) := rfl

theorem State.diag_eq_noted (s : State) (c : Status) (info : List Nat) : s.diag c info = s.noted [⟨c, info⟩] := rfl

/-- A free port takes the command. -/
theorem whenFree_of_idle (s : State) (k : Host.Outcome State Fault Refusal) (h : s.appCmd = .none) :
    whenFree s k = k := by simp [whenFree, State.appBusy, h]

/-- A busy port does not. -/
theorem whenFree_of_busy (s : State) (k : Host.Outcome State Fault Refusal) (h : s.appCmd ≠ .none) :
    whenFree s k = .next s := by simp [whenFree, State.appBusy, h]

theorem whenLive_of_live (s : State) (k : Host.Outcome State Fault Refusal) (h : s.appCmd = .none)
    (hl : s.live = true) : whenLive s k = k := by simp [whenLive, whenFree_of_idle s _ h, hl]

theorem whenLive_of_dead (s : State) (k : Host.Outcome State Fault Refusal) (h : s.appCmd = .none)
    (hl : s.live = false) : whenLive s k = .next (s.replied [0x09]) := by
  simp only [whenLive, whenFree_of_idle s _ h, hl, Bool.false_eq_true, if_false]
  rfl

/-- What a command behind `whenFree` can do: nothing at a busy port, or what it says. -/
theorem whenFree_eq_next (s t : State) (k : Host.Outcome State Fault Refusal) (h : whenFree s k = .next t) :
    (s.appCmd ≠ .none ∧ t = s) ∨ (s.appCmd = .none ∧ k = .next t) := by
  by_cases hb : s.appCmd = .none
  · rw [whenFree_of_idle s k hb] at h
    exact .inr ⟨hb, h⟩
  · rw [whenFree_of_busy s k hb] at h
    cases h
    exact .inl ⟨hb, rfl⟩

/-- What a `T_` command behind `whenLive` can do: nothing at a busy port, be refused without a session, or what
it says. -/
theorem whenLive_eq_next (s t : State) (k : Host.Outcome State Fault Refusal) (h : whenLive s k = .next t) :
    (s.appCmd ≠ .none ∧ t = s) ∨ (s.appCmd = .none ∧ s.live = false ∧ t = s.replied [0x09])
      ∨ (s.appCmd = .none ∧ s.live = true ∧ k = .next t) := by
  rcases whenFree_eq_next s t _ h with hb | ⟨hf, hk⟩
  · exact .inl hb
  · by_cases hl : s.live = true
    · rw [if_pos hl] at hk
      exact .inr (.inr ⟨hf, hl, hk⟩)
    · rw [if_neg hl] at hk
      cases hk
      exact .inr (.inl ⟨hf, by simpa using hl, rfl⟩)

/-- What an `RB_` command behind `onUserRing` can do. -/
theorem onUserRing_eq_next (rb : Byte) (s t : State) (k : Host.Outcome State Fault Refusal)
    (h : onUserRing rb s k = .next t) :
    (s.appCmd ≠ .none ∧ t = s) ∨ (s.appCmd = .none ∧ (t = s.replied [0x0A] ∨ t = s.replied [0x09]))
      ∨ (s.appCmd = .none ∧ k = .next t) := by
  rcases whenFree_eq_next s t _ h with hb | ⟨hf, hk⟩
  · exact .inl hb
  · split at hk
    · cases hk
      exact .inr (.inl ⟨hf, .inl rfl⟩)
    · split at hk
      · cases hk
        exact .inr (.inl ⟨hf, .inr rfl⟩)
      · exact .inr (.inr ⟨hf, hk⟩)

theorem onUserRing_two (s : State) (k : Host.Outcome State Fault Refusal) (h : s.appCmd = .none) :
    onUserRing 2 s k = k := by simp [onUserRing, whenFree_of_idle s _ h]

/-- What an enabled step can do. -/
theorem whenEnabled_eq_next (c : Bool) (s t : State) (k : Host.Outcome State Fault Refusal)
    (h : whenEnabled c s k = .next t) : (c = false ∧ t = s) ∨ (c = true ∧ k = .next t) := by
  cases c
  · cases h
    exact .inl ⟨rfl, rfl⟩
  · exact .inr ⟨rfl, h⟩

/-! ### `MAKE_FRAME` (R216) -/

theorem State.txFrameOf_modesAgree (s : State) (chunk : List Byte) : (s.txFrameOf chunk).modesAgree = true := by
  have hm := s.cfg.destAddrMode.isLt
  have hl := s.cfg.localAddrMode.isLt
  have hd : destModeOf (txFcf s.cfg) = s.cfg.destAddrMode := by
    apply BitVec.eq_of_toNat_eq
    simp only [destModeOf, toNat_field, txFcf, BitVec.toNat_ofNat]
    omega
  have hs : srcModeOf (txFcf s.cfg) = s.cfg.localAddrMode := by
    apply BitVec.eq_of_toNat_eq
    simp only [srcModeOf, toNat_field, txFcf, BitVec.toNat_ofNat]
    omega
  simp [Frame.modesAgree, State.txFrameOf, addressOf, hd, hs]

theorem State.txFrameOf_wf (s : State) (chunk : List Byte) : (s.txFrameOf chunk).Wf :=
  ⟨addressOf_wf _ _ (by simp), addressOf_wf _ _ (by simp)⟩

/-- The wire frame of a chunk, as long as its length byte says. -/
theorem State.length_txWire (s : State) (chunk : List Byte) :
    (wireBytes (s.txFrameOf chunk)).length = 2 + hdrLen (s.txFrameOf chunk).fcf + chunk.length :=
  length_wireBytes _ (s.txFrameOf_modesAgree chunk) (s.txFrameOf_wf chunk)

/-- A chunk whose frame fits in `TXFRAME` is built there. -/
theorem State.makeFrame_of_fits (s : State) (chunk : List Byte)
    (h : 2 + hdrLen (s.txFrameOf chunk).fcf + chunk.length ≤ Config.frameMax) :
    s.makeFrame chunk = some (s.loadFrame (wireBytes (s.txFrameOf chunk))) := by
  have hb : build (s.txFrameOf chunk) Config.frameMax = .ok (wireBytes (s.txFrameOf chunk)) := by
    refine (build_eq_ok _ _ _).2 ⟨s.txFrameOf_modesAgree chunk, ?_, h, rfl⟩
    have := frameMax_le
    show 2 + hdrLen (s.txFrameOf chunk).fcf + chunk.length ≤ 255
    omega
  simp only [State.makeFrame, hb]

/-- Every chunk of at most `MTU` bytes fits (R216). -/
theorem State.fits_of_mtu (s : State) (chunk : List Byte) (h : chunk.length ≤ Config.mtu) :
    2 + hdrLen (s.txFrameOf chunk).fcf + chunk.length ≤ Config.frameMax := by
  have h1 := hdrLen_le (s.txFrameOf chunk).fcf
  have h2 : Config.hdrMax = 23 := rfl
  rw [frameMax_eq]
  omega

/-- A chunk whose frame does not fit is not built. -/
theorem State.makeFrame_of_overflow (s : State) (chunk : List Byte)
    (h : Config.frameMax < 2 + hdrLen (s.txFrameOf chunk).fcf + chunk.length) : s.makeFrame chunk = none := by
  have hb : build (s.txFrameOf chunk) Config.frameMax = .error .buildOverflow := by
    unfold build
    rw [s.txFrameOf_modesAgree chunk]
    have ht : 255 < frameTotal (s.txFrameOf chunk) ∨ Config.frameMax < frameTotal (s.txFrameOf chunk) := .inr h
    exact if_pos ht
  simp only [State.makeFrame, hb]

/-- The bytes the radio is handed are those just built. -/
theorem Memory.stored_writeBytes (m : Memory) (bs : List Byte) (h : m.wf = true) :
    m.Stored (m.writeBytes 0 bs) 0 bs := by
  constructor
  · intro i hi
    rw [Memory.read_writeBytes bs m 0 h, if_pos (by omega)]
    simp only [Nat.zero_add, Nat.sub_zero]
    exact List.getD_eq_getElem bs 0 hi
  · intro x hx
    rw [Memory.read_writeBytes bs m 0 h, if_neg (by omega)]

/-- A bulk read is the list of the bytes at its indices. -/
theorem Memory.readBytes_eq (m : Memory) (a n : Nat) :
    m.readBytes a n = (List.range n).map fun i => m.read (a + i) := by
  refine List.ext_getElem (by simp) fun i h1 h2 => ?_
  rw [Memory.getElem_readBytes]
  simp

/-- The frame just built is what the radio would be handed (R300). -/
theorem State.frameBytes_loadFrame (s : State) (out : List Byte) (h : s.tx.txFrame.wf = true) :
    (s.loadFrame out).tx.frameBytes = out := by
  have hst := Memory.stored_writeBytes s.tx.txFrame out h
  show ((s.tx.txFrame.writeBytes 0 out).readBytes 0 out.length) = out
  rw [Memory.readBytes_eq]
  refine List.ext_getElem (by simp) fun i h1 h2 => ?_
  simpa using hst.inside i h2

/-! ### `DRAIN` and the sends (R217 to R220) -/

/-- The bytes `DRAIN` takes are the oldest ones, at most `MTU` of them. -/
theorem State.drainTxb_chunk (s : State) :
    s.drainTxb.theChunk = s.tx.txb.content.take (min s.tx.txb.count Config.mtu) := by
  simp [State.drainTxb, State.theChunk, State.setLatch, RingBuffer.front_eq]

/-- `SEND_NOCONF` of a chunk that fits. -/
theorem State.startSendNoconf_of_fits (s : State)
    (h : 2 + hdrLen (s.txFrameOf s.theChunk).fcf + s.theChunk.length ≤ Config.frameMax) :
    s.startSendNoconf = .next (s.loadFrame (wireBytes (s.txFrameOf s.theChunk))).takeChunk.sendOnce := by
  simp only [State.startSendNoconf, s.makeFrame_of_fits _ h]

/-- `SEND_CONF` of a chunk that fits. -/
theorem State.startSendConf_of_fits (s : State)
    (h : 2 + hdrLen (s.txFrameOf s.theChunk).fcf + s.theChunk.length ≤ Config.frameMax) :
    s.startSendConf = .next (s.loadFrame (wireBytes (s.txFrameOf s.theChunk))).takeChunk.armSend := by
  simp only [State.startSendConf, s.makeFrame_of_fits _ h]

/-- What a send does to the state: the chunk's frame stands in `TXFRAME`, and TXB has given up the chunk. -/
def State.framed (s : State) (chunk : List Byte) : State :=
  { s with
    tx := { s.tx with
      txb := s.tx.txb.without (min s.tx.txb.count Config.mtu)
      txFrame := s.tx.txFrame.writeBytes 0 (wireBytes (s.txFrameOf chunk))
      txFrameLen := (wireBytes (s.txFrameOf chunk)).length }
    latch := { s.latch with drainReq := false, chunk := none } }

/-- Draining and loading the frame. -/
theorem State.drained_loadFrame (s : State) (chunk : List Byte) :
    (s.requestDrain.drainTxb.loadFrame (wireBytes (s.requestDrain.drainTxb.txFrameOf chunk))).takeChunk
      = s.framed chunk := by
  have e : min (min s.tx.txb.count Config.mtu) s.tx.txb.count = min s.tx.txb.count Config.mtu := by omega
  simp only [State.framed, State.takeChunk, State.loadFrame, State.drainTxb, State.requestDrain, State.setLatch,
    State.setTxb, RingBuffer.consume_eq_without, e]
  rfl

/-- Every chunk drained fits. -/
theorem State.drained_fits (s : State) :
    2 + hdrLen (s.requestDrain.drainTxb.txFrameOf s.requestDrain.drainTxb.theChunk).fcf
      + s.requestDrain.drainTxb.theChunk.length ≤ Config.frameMax := by
  refine State.fits_of_mtu _ _ ?_
  rw [s.requestDrain.drainTxb_chunk, List.length_take]
  omega

/-- A confirmed send (R214, R215, R217, R220): no step of it can stop. -/
theorem State.drainAndSend_confirmed (s : State) (c : AppCmd) (results : List Byte) (h : s.ackRequested = true) :
    s.drainAndSend c results
      = .next ((s.framed (s.tx.txb.content.take (min s.tx.txb.count Config.mtu))).armSend.setAppCmd c) := by
  have e := s.requestDrain.drainTxb.startSendConf_of_fits s.drained_fits
  simp only [State.drainAndSend, h, if_true, e, thenNext, s.drained_loadFrame, s.requestDrain.drainTxb_chunk]
  rfl

/-- An unconfirmed send (R214, R215, R217, R219): no step of it can stop. -/
theorem State.drainAndSend_unconfirmed (s : State) (c : AppCmd) (results : List Byte)
    (h : s.ackRequested = false) :
    s.drainAndSend c results
      = .next ((s.framed (s.tx.txb.content.take (min s.tx.txb.count Config.mtu))).sendOnce.respond .ok results) := by
  have e := s.requestDrain.drainTxb.startSendNoconf_of_fits s.drained_fits
  simp only [State.drainAndSend, h, Bool.false_eq_true, if_false, e, thenNext, s.drained_loadFrame,
    s.requestDrain.drainTxb_chunk]
  rfl

/-- The bytes the radio is handed after a drain. -/
theorem State.frameBytes_framed (s : State) (chunk : List Byte) (h : s.tx.txFrame.wf = true) :
    (s.framed chunk).tx.frameBytes = wireBytes (s.txFrameOf chunk) := s.frameBytes_loadFrame _ h

/-- What `SEND_NOCONF` does with the frame in `TXFRAME`, by the radio's answer (R219). -/
theorem State.sendOnce_eq (s : State) :
    s.sendOnce = if s.io.txAnswer then
        { s with
          tx := { s.tx with outSeq := s.tx.outSeq + 1 }
          env := { s.env with inflight := s.env.inflight ++ [s.tx.frameBytes] }
          io := { s.io with txCalls := s.io.txCalls ++ [⟨s.tx.frameBytes, true⟩] } }
      else
        State.noted { s with io := { s.io with txCalls := s.io.txCalls ++ [⟨s.tx.frameBytes, false⟩] } }
          [⟨.txFailed, [s.tx.outSeq.toNat]⟩] := by
  unfold State.sendOnce
  by_cases h : s.io.txAnswer = true
  · simp [h, State.transmit, State.advanceSeq]
  · simp [h, State.transmit, State.diag, State.noted]

/-! ### Sequence validation (R254 to R257) -/

/-- When a frame is a duplicate. -/
theorem seqVerdict_iff (rx : RxRegs) (f : Frame) :
    seqVerdict rx f = .duplicate
      ↔ f.fcf.getLsbD 8 = false ∧ rx.lastSeqValid = true ∧ f.seq = rx.lastSeq := by
  unfold seqVerdict
  show (if (!(f.fcf.getLsbD 8) && rx.lastSeqValid && decide (f.seq = rx.lastSeq)) = true then Verdict.duplicate
    else .accept) = .duplicate ↔ _
  cases f.fcf.getLsbD 8 <;> cases rx.lastSeqValid <;> by_cases h : f.seq = rx.lastSeq <;> simp [h]

/-- Else it is accepted. -/
theorem seqVerdict_accept (rx : RxRegs) (f : Frame) (h : seqVerdict rx f ≠ .duplicate) :
    seqVerdict rx f = .accept := by
  cases hv : seqVerdict rx f with
  | accept => rfl
  | duplicate => exact absurd hv h

/-- What a duplicate records: nothing (R255). -/
theorem seqRecord_of_duplicate (rx : RxRegs) (f : Frame) (h : seqVerdict rx f = .duplicate) :
    seqRecord rx f = rx := by
  obtain ⟨h1, h2, h3⟩ := (seqVerdict_iff rx f).1 h
  have hs : seqSuppressed f.fcf = false := h1
  cases rx
  simp_all [seqRecord]

/-- What a duplicate is noted as. -/
theorem seqDiags_of_duplicate (rx : RxRegs) (f : Frame) (h : seqVerdict rx f = .duplicate) :
    seqDiags rx f = [⟨.duplicate, [f.seq.toNat]⟩] := by
  obtain ⟨h1, h2, h3⟩ := (seqVerdict_iff rx f).1 h
  have hs : seqSuppressed f.fcf = false := h1
  simp [seqDiags, hs, h2, h3]

/-- What an accepted frame is noted as: a gap, when its number is not the one expected (R257). -/
theorem seqDiags_of_accept (rx : RxRegs) (f : Frame) (h : seqVerdict rx f ≠ .duplicate) :
    seqDiags rx f = if f.fcf.getLsbD 8 = false ∧ rx.lastSeqValid = true ∧ f.seq ≠ rx.lastSeq + 1
      then [⟨.seqGap, [rx.lastSeq.toNat, f.seq.toNat]⟩] else [] := by
  have hd : ¬ (f.fcf.getLsbD 8 = false ∧ rx.lastSeqValid = true ∧ f.seq = rx.lastSeq) :=
    fun hc => h ((seqVerdict_iff rx f).2 hc)
  by_cases h1 : f.fcf.getLsbD 8 = true
  · have hs : seqSuppressed f.fcf = true := h1
    rw [if_neg (by rw [h1]; simp)]
    simp [seqDiags, hs]
  · have h1' : f.fcf.getLsbD 8 = false := by simpa using h1
    have hs : seqSuppressed f.fcf = false := h1'
    by_cases h2 : rx.lastSeqValid = true
    · have h3 : f.seq ≠ rx.lastSeq := fun h3 => hd ⟨h1', h2, h3⟩
      by_cases h4 : f.seq = rx.lastSeq + 1
      · rw [if_neg (by simp [h4])]
        unfold seqDiags
        rw [if_neg (by simp [hs, h2]), if_neg h3, if_pos h4]
      · rw [if_pos ⟨h1', h2, h4⟩]
        unfold seqDiags
        rw [if_neg (by simp [hs, h2]), if_neg h3, if_neg h4]
    · rw [if_neg (by simp [h2])]
      simp [seqDiags, h2]

/-! ### The receive step (R251) -/

/-- Which rings, buffers and registers the record of a number leaves alone. -/
@[simp] theorem seqRecord_rxb (rx : RxRegs) (f : Frame) : (seqRecord rx f).rxb = rx.rxb := by
  unfold seqRecord
  split <;> rfl
@[simp] theorem seqRecord_pendBuf (rx : RxRegs) (f : Frame) : (seqRecord rx f).pendBuf = rx.pendBuf := by
  unfold seqRecord
  split <;> rfl
@[simp] theorem seqRecord_pendValid (rx : RxRegs) (f : Frame) : (seqRecord rx f).pendValid = rx.pendValid := by
  unfold seqRecord
  split <;> rfl
@[simp] theorem seqRecord_metaValid (rx : RxRegs) (f : Frame) : (seqRecord rx f).metaValid = rx.metaValid := by
  unfold seqRecord
  split <;> rfl

/-- The latches of the receive step, empty before and after it. -/
def State.seqDone (s : State) : State := { s with latch := { s.latch with rxFrame := none, verdict := none } }

theorem State.seqDone_of_clear (s : State) (h : s.latch = .clear) : s.seqDone = s := by
  cases s
  simp_all [State.seqDone, Latches.clear]

/-- A duplicate is dropped: only the diagnostic is left of it (R255). -/
theorem State.acceptFrame_of_duplicate (s : State) (f : Frame) (h : seqVerdict s.rx f = .duplicate) :
    s.acceptFrame f = ⟨s.seqDone.noted [⟨.duplicate, [f.seq.toNat]⟩], .duplicate, false⟩ := by
  have e : (s.offerFrame f).validateSeq f
      = { s with
          rx := seqRecord s.rx f
          io := { s.io with diag := s.io.diag ++ seqDiags s.rx f }
          latch := { s.latch with rxFrame := none, verdict := some (seqVerdict s.rx f) } } := rfl
  simp only [State.acceptFrame, e, h, if_true, State.takeVerdict, State.setLatch, seqRecord_of_duplicate s.rx f h,
    seqDiags_of_duplicate s.rx f h]
  rfl

/-- Any other frame is recorded, noted, and delivered (R254, R258). -/
theorem State.acceptFrame_of_accept (s : State) (f : Frame) (h : seqVerdict s.rx f ≠ .duplicate) :
    s.acceptFrame f
      = (State.noted { s.seqDone with rx := seqRecord s.rx f } (seqDiags s.rx f)).deliver f.payload := by
  have e : (s.offerFrame f).validateSeq f
      = { s with
          rx := seqRecord s.rx f
          io := { s.io with diag := s.io.diag ++ seqDiags s.rx f }
          latch := { s.latch with rxFrame := none, verdict := some (seqVerdict s.rx f) } } := rfl
  simp only [State.acceptFrame, e, seqVerdict_accept s.rx f h, Option.some.injEq, reduceCtorEq, if_false,
    State.takeVerdict, State.setLatch]
  rfl

/-- A payload that fits is appended to RXB (R258), an empty one too. -/
theorem State.deliver_of_fits (s : State) (payload : List Byte)
    (h : payload.length ≤ s.rx.rxb.cap - s.rx.rxb.count) :
    s.deliver payload = ⟨s.setRxb (s.rx.rxb.writeArray payload), .ok, true⟩ := by
  unfold State.deliver
  by_cases h0 : payload.length = 0
  · have hn : payload = [] := List.eq_nil_of_length_eq_zero h0
    have e : s.rx.rxb.writeArray payload = s.rx.rxb := by
      rw [hn]
      simp [RingBuffer.writeArray, RingBuffer.accepts, Memory.storeRing]
    rw [if_pos h0, e]
    rfl
  · rw [if_neg h0, if_pos (by exact h)]

/-- A payload that does not fit is held whole (R258). -/
theorem State.deliver_of_full (s : State) (payload : List Byte)
    (h : s.rx.rxb.cap - s.rx.rxb.count < payload.length) :
    s.deliver payload
      = ⟨(s.holdPending payload).noted [⟨.backpressure, [payload.length, s.rx.rxb.cap - s.rx.rxb.count]⟩],
          .backpressure, false⟩ := by
  unfold State.deliver
  rw [if_neg (by omega), if_neg (by show ¬ payload.length ≤ s.rx.rxb.cap - s.rx.rxb.count; omega)]
  rfl

/-- With a frame pending the receive step drains it (R259). -/
theorem State.receiveStep_of_pending (s : State) (h : s.rx.pendValid = true) : s.receiveStep = s.drainPending := by
  simp [State.receiveStep, h]

/-- With nothing to receive only the call is made (R252). -/
theorem State.receiveStep_of_empty (s : State) (h : s.rx.pendValid = false) (hq : s.env.inq = []) :
    s.receiveStep = ⟨s.pullFrame, .noFrame, false⟩ := by
  simp [State.receiveStep, h, State.nextInFrame, hq]

/-- Else the oldest frame is pulled and handled (R251). -/
theorem State.receiveStep_of_frame (s : State) (fr : InFrame) (rest : List InFrame) (h : s.rx.pendValid = false)
    (hq : s.env.inq = fr :: rest) : s.receiveStep = s.pullFrame.handleFrame fr := by
  simp [State.receiveStep, h, State.nextInFrame, hq]

/-- A frame that does not parse is discarded (R253). -/
theorem State.handleFrame_of_malformed (s : State) (fr : InFrame) (h : parse fr.raw = none) :
    s.handleFrame fr = ⟨s.noted [⟨.malformed, []⟩], .malformed, false⟩ := by
  simp only [State.handleFrame, h]
  rfl

/-- A frame that parses has its metadata latched and is validated (R260). -/
theorem State.handleFrame_of_parsed (s : State) (fr : InFrame) (f : Frame) (h : parse fr.raw = some f) :
    s.handleFrame fr = (s.latchMeta fr).acceptFrame f := by
  simp only [State.handleFrame, h]

/-- Draining the pending frame, by whether all of it fits now (R259). -/
theorem State.drainPending_eq (s : State) :
    s.drainPending
      = if s.rx.pendOff + s.rx.pendFits = s.rx.pendLen then
          ⟨{ s with rx := { s.rx with
              rxb := s.rx.rxb.writeArray (s.rx.pendBytes s.rx.pendFits)
              pendOff := s.rx.pendOff + s.rx.pendFits
              pendValid := false } }, .ok, true⟩
        else
          ⟨{ s with rx := { s.rx with
              rxb := s.rx.rxb.writeArray (s.rx.pendBytes s.rx.pendFits)
              pendOff := s.rx.pendOff + s.rx.pendFits } }, .backpressure, decide (0 < s.rx.pendFits)⟩ := rfl

/-- A buffer whose `k` oldest bytes were taken. -/
theorem RingBuffer.content_without (rb : RingBuffer) (k : Nat) (h : k ≤ rb.count) :
    (rb.without k).content = rb.content.drop k := by
  have e : rb.without k = rb.consume k := by
    rw [RingBuffer.consume_eq_without]
    congr 1
    omega
  rw [e, RingBuffer.content_consume]

/-! ### What the receive step works on (R73) -/

/-- What the receive step works on as in `s` (the receive path's registers, the latches, the environment and the
ports), everything else as in `a`. -/
def State.over (s a : State) : State := { a with rx := s.rx, latch := s.latch, env := s.env, io := s.io }

/-- A receive step's answer, with everything it does not work on as in `a`. -/
def Received.over (r : Received) (a : State) : Received := ⟨r.state.over a, r.status, r.progress⟩

@[simp] theorem State.over_rx (s a : State) : (s.over a).rx = s.rx := rfl
@[simp] theorem State.over_env (s a : State) : (s.over a).env = s.env := rfl
@[simp] theorem State.over_io (s a : State) : (s.over a).io = s.io := rfl
@[simp] theorem State.over_latch (s a : State) : (s.over a).latch = s.latch := rfl
@[simp] theorem State.over_tx (s a : State) : (s.over a).tx = a.tx := rfl
@[simp] theorem State.over_rd (s a : State) : (s.over a).rd = a.rd := rfl

theorem State.deliver_over (s a : State) (p : List Byte) : (s.over a).deliver p = (s.deliver p).over a := by
  by_cases h : p.length ≤ s.rx.rxb.cap - s.rx.rxb.count
  · rw [s.deliver_of_fits p h, (s.over a).deliver_of_fits p h]
    rfl
  · rw [s.deliver_of_full p (by omega), (s.over a).deliver_of_full p (by rw [State.over_rx]; omega)]
    rfl

theorem State.acceptFrame_over (s a : State) (f : Frame) : (s.over a).acceptFrame f = (s.acceptFrame f).over a := by
  by_cases h : seqVerdict s.rx f = .duplicate
  · rw [s.acceptFrame_of_duplicate f h, (s.over a).acceptFrame_of_duplicate f h]
    rfl
  · rw [s.acceptFrame_of_accept f h, (s.over a).acceptFrame_of_accept f h, ← State.deliver_over]
    rfl

theorem State.handleFrame_over (s a : State) (fr : InFrame) :
    (s.over a).handleFrame fr = (s.handleFrame fr).over a := by
  cases h : parse fr.raw with
  | none =>
    rw [s.handleFrame_of_malformed fr h, (s.over a).handleFrame_of_malformed fr h]
    rfl
  | some f =>
    rw [s.handleFrame_of_parsed fr f h, (s.over a).handleFrame_of_parsed fr f h, ← State.acceptFrame_over]
    rfl

/-- The receive step neither reads nor writes anything else. -/
theorem State.receiveStep_over (s a : State) : (s.over a).receiveStep = s.receiveStep.over a := by
  by_cases hp : s.rx.pendValid = true
  · rw [s.receiveStep_of_pending hp, (s.over a).receiveStep_of_pending hp, State.drainPending_eq,
      State.drainPending_eq, State.over_rx]
    split <;> rfl
  · have hp' : s.rx.pendValid = false := by simpa using hp
    cases hq : s.env.inq with
    | nil =>
      rw [s.receiveStep_of_empty hp' hq, (s.over a).receiveStep_of_empty hp' hq]
      rfl
    | cons fr rest =>
      rw [s.receiveStep_of_frame fr rest hp' hq, (s.over a).receiveStep_of_frame fr rest hp' hq,
        ← State.handleFrame_over]
      rfl

/-- So everything else is as it was. -/
theorem State.receiveStep_frame (s : State) : s.receiveStep.state = s.receiveStep.state.over s :=
  congrArg Received.state (s.receiveStep_over s)

end Sys2Proof.Machine
end

