-- ==== Sys2Proof/Laws/Step.lean ====
section
/-! SUPPORT. What a step can do, said once: it changes the ports only, asserts the reset input, or runs one
decoded instruction of the port whose turn it is on a state that differs from `s` in its ports only. -/

namespace Sys2Proof.Machine

/-- A state that differs in its ports only. -/
def State.withIo (s : State) (io : Ports) : State := { s with io := io }

@[simp] theorem State.withIo_io (s : State) (io : Ports) : (s.withIo io).io = io := rfl
@[simp] theorem State.withIo_tx (s : State) (io : Ports) : (s.withIo io).tx = s.tx := rfl
@[simp] theorem State.withIo_rx (s : State) (io : Ports) : (s.withIo io).rx = s.rx := rfl
@[simp] theorem State.withIo_appCmd (s : State) (io : Ports) : (s.withIo io).appCmd = s.appCmd := rfl

/-- Every step is one of the three. -/
theorem step_eq_next (s t : State) (h : step s = .next t) :
    (∃ io, t = s.withIo io) ∨ (∃ io, t = (s.withIo io).hardReset)
      ∨ ∃ (p : Port) (m : List Byte) (i : Instr) (io : Ports),
          decodeOn p m = .accepted i ∧ exec i (s.withIo io) = .next t
          ∧ (p = .command → s.appCmd = .none) := by
  unfold step fetch at h
  cases hq : s.io.schedule with
  | nil =>
    rw [hq] at h
    cases h
    exact .inl ⟨s.io, rfl⟩
  | cons turn rest =>
    rw [hq] at h
    obtain ⟨slot, a⟩ := turn
    cases slot with
    | reset =>
      cases h
      exact .inr (.inl ⟨_, rfl⟩)
    | command =>
      simp only [fetchSlot, fetchCommand] at h
      by_cases hb : s.appCmd = .none
      · rw [if_neg (show ¬ (s.startTurn ⟨.command, a⟩ rest).appBusy = true by
          simp [State.appBusy, State.startTurn, hb])] at h
        cases hm : (s.startTurn ⟨.command, a⟩ rest).io.cmdPort with
        | nil =>
          rw [hm] at h
          cases h
          exact .inl ⟨_, rfl⟩
        | cons m ms =>
          rw [hm] at h
          dsimp only at h
          cases hd : decodeOn .command m with
          | accepted i =>
            rw [hd] at h
            exact .inr (.inr ⟨.command, m, i, _, hd, h, fun _ => hb⟩)
          | rejected e =>
            rw [hd] at h
            cases h
            exact .inl ⟨_, rfl⟩
      · rw [if_pos (show (s.startTurn ⟨.command, a⟩ rest).appBusy = true from decide_eq_true hb)] at h
        cases h
        exact .inl ⟨_, rfl⟩
    | event =>
      simp only [fetchSlot, fetchEvent] at h
      cases hm : (s.startTurn ⟨.event, a⟩ rest).io.evPort with
      | nil =>
        rw [hm] at h
        cases h
        exact .inl ⟨_, rfl⟩
      | cons m ms =>
        rw [hm] at h
        dsimp only at h
        cases hd : decodeOn .event m with
        | accepted i =>
          rw [hd] at h
          exact .inr (.inr ⟨.event, m, i, _, hd, h, fun hc => by cases hc⟩)
        | rejected e =>
          rw [hd] at h
          cases h
          exact .inl ⟨_, rfl⟩
    | internal op =>
      simp only [fetchSlot, fetchInternal] at h
      cases hd : decodeOn .internal [op] with
      | accepted i =>
        rw [hd] at h
        exact .inr (.inr ⟨.internal, [op], i, _, hd, h, fun hc => by cases hc⟩)
      | rejected e =>
        rw [hd] at h
        cases h
        exact .inl ⟨_, rfl⟩
    | wire w =>
      simp only [fetchSlot, fetchWire] at h
      cases hd : decodeOn .wire (halfBytes w) with
      | accepted i =>
        rw [hd] at h
        exact .inr (.inr ⟨.wire, _, i, _, hd, h, fun hc => by cases hc⟩)
      | rejected e =>
        rw [hd] at h
        cases h
        exact .inl ⟨_, rfl⟩

/-- What holds between steps says nothing of the ports. -/
theorem State.inv_withIo (s : State) (io : Ports) (hi : s.Inv) : (s.withIo io).Inv :=
  ⟨hi.ub, hi.txb, hi.rxb, hi.pendBuf, hi.txFrame, hi.txFrameLen, hi.pending, hi.retries, hi.ackTimer, hi.arqSends,
    hi.delaySends, hi.sendBusy, hi.readBusy, hi.busyLive, hi.readCount, hi.readShort, hi.readTimer, hi.readIdle,
    hi.latch, hi.modes, hi.caps, hi.staged, hi.quiet⟩

/-- Every buffer of the reset state lists nothing, so its form is canonical. -/
theorem State.reset_wf : State.reset.ub.store.wf = true ∧ State.reset.tx.txb.store.wf = true
    ∧ State.reset.rx.rxb.store.wf = true ∧ State.reset.rx.pendBuf.wf = true
    ∧ State.reset.tx.txFrame.wf = true := ⟨rfl, rfl, rfl, rfl, rfl⟩

end Sys2Proof.Machine
end

