-- ==== Sys2Proof/Tests/Slice0.lean ====
section
/-! SUPPORT. Checks of the model against words and results written out from the spec, and, for each statement of
Certificates/Slice0/Obligations.lean that has hypotheses, a named theorem (`witness_<its name>`) that shows concrete
values meeting them. -/

namespace Sys2Proof.Machine

/-! ### Well-formedness (30_encoding.md R111): an ill-formed term for each check -/

theorem test_wf_addrMake : ¬ (Instr.addrMake 2 [0x34, 0x12]).WellFormed := by decide
theorem test_wf_parse : ¬ (Instr.parse (List.replicate 65536 0)).WellFormed := by
  simp only [Instr.WellFormed, Instr.wellFormed, List.length_replicate]; decide
theorem test_wf_build_dest :
    ¬ (Instr.build 0 0 0 0 0 [0x01] (List.replicate 8 0) []).WellFormed := by decide
theorem test_wf_build_src :
    ¬ (Instr.build 0 0 0 0 0 (List.replicate 8 0) [] []).WellFormed := by decide
theorem test_wf_build_payload :
    ¬ (Instr.build 0 0 0 0 0 (List.replicate 8 0) (List.replicate 8 0) (List.replicate 256 0)).WellFormed := by
  simp only [Instr.WellFormed, Instr.wellFormed, List.length_replicate]; decide
theorem test_wf_rbWriteArray : ¬ (Instr.rbWriteArray 2 (List.replicate 65536 0)).WellFormed := by
  simp only [Instr.WellFormed, Instr.wellFormed, List.length_replicate]; decide
theorem test_wf_evRxEnqueue : ¬ (Instr.evRxEnqueue (List.replicate 65536 0) 0 0 0).WellFormed := by
  simp only [Instr.WellFormed, Instr.wellFormed, List.length_replicate]; decide

/-! ### Decoding: one message for each operation, written out from the opcode map R112 and the formats of R111
(those of 95_test_vectors.md where a program has one) -/

theorem test_decode_values :
    decodeOn .command [0x01, 0x02] = .accepted (.addrLen 2)
    ∧ decodeOn .command [0x02, 0x02, 0x34, 0x12, 0xFF, 0xFF, 0xFF, 0xFF, 0xFF, 0xFF]
        = .accepted (.addrMake 2 [0x34, 0x12, 0xFF, 0xFF, 0xFF, 0xFF, 0xFF, 0xFF])
    ∧ decodeOn .command [0x03, 0x98, 0x2A] = .accepted (.fcfUnpack 0x2A98)
    ∧ decodeOn .command [0x04, 1, 0, 0, 0, 1, 0, 0, 0, 2, 0, 2]
        = .accepted (.fcfPack ⟨1, 0, 0, 0, 1, 0, 0, 0, 2, 0, 2⟩) := by decide

theorem test_decode_codec :
    decodeOn .command [0x10, 0x04, 0x00, 0x04, 0x01, 0x01, 0x00] = .accepted (.parse [0x04, 0x01, 0x01, 0x00])
    ∧ decodeOn .command [0x11, 0x8D, 0x00, 0x41, 0x88, 0x07, 0x34, 0x12, 0x78, 0x56, 0x02, 0x00, 0, 0, 0, 0, 0, 0,
        0x01, 0x00, 0, 0, 0, 0, 0, 9, 0x02, 0x48, 0x45]
      = .accepted (.build 141 0x8841 7 0x1234 0x5678 [0x02, 0, 0, 0, 0, 0, 0, 0] [0x01, 0, 0, 0, 0, 0, 0, 9]
          [0x48, 0x45]) := by decide

theorem test_decode_ring :
    decodeOn .command [0x20, 0x02, 0x08] = .accepted (.rbWrite 2 8)
    ∧ decodeOn .command [0x21, 0x02, 0x03, 0x00, 0x01, 0x02, 0x03] = .accepted (.rbWriteArray 2 [1, 2, 3])
    ∧ decodeOn .command [0x22, 0x02] = .accepted (.rbRead 2)
    ∧ decodeOn .command [0x23, 0x02, 0x0A, 0x01] = .accepted (.rbReadArray 2 266)
    ∧ decodeOn .command [0x24, 0x02] = .accepted (.rbPeek 2)
    ∧ decodeOn .command [0x25, 0x02] = .accepted (.rbAvailable 2)
    ∧ decodeOn .command [0x26, 0x02] = .accepted (.rbAvailableForWrite 2)
    ∧ decodeOn .command [0x27, 0x02] = .accepted (.rbIsFull 2)
    ∧ decodeOn .command [0x28, 0x02] = .accepted (.rbIsEmpty 2)
    ∧ decodeOn .command [0x29, 0x02, 0x04, 0x00] = .accepted (.rbResize 2 4) := by decide

theorem test_decode_transport :
    decodeOn .command [0x30, 0x00, 0x34, 0x12, 0x00, 0x00, 0x00, 0x00, 0x00, 0x80]
        = .accepted (.cfgWrite 0 0x8000000000001234)
    ∧ decodeOn .command [0x31] = .accepted .tBegin
    ∧ decodeOn .command [0x32] = .accepted .tEnd
    ∧ decodeOn .command [0x33, 0x48] = .accepted (.tWrite 0x48)
    ∧ decodeOn .command [0x34] = .accepted .tFlush
    ∧ decodeOn .command [0x35] = .accepted .tReceive
    ∧ decodeOn .command [0x36] = .accepted .tRead
    ∧ decodeOn .command [0x37, 0x06, 0x00, 0xE8, 0x03, 0x00, 0x00] = .accepted (.tReadBytes 6 1000)
    ∧ decodeOn .command [0x38] = .accepted .tAvailable
    ∧ decodeOn .command [0x39] = .accepted .tMeta := by decide

theorem test_decode_events :
    decodeOn .event [0x40] = .accepted .evTxDone
    ∧ decodeOn .event [0x41, 0x07, 0x00, 0x00, 0x01] = .accepted (.evTxFailed 0x01000007)
    ∧ decodeOn .event [0x42] = .accepted .evAckTimeout
    ∧ decodeOn .event [0x43] = .accepted .evRetryDelayDone
    ∧ decodeOn .event [0x44] = .accepted .evReadTimeout
    ∧ decodeOn .event [0x45, 0x07, 0x00, 0x07, 0x01, 0x00, 0x05, 0x41, 0x42, 0x00, 0xC4, 0xFF, 0x0B]
        = .accepted (.evRxEnqueue [0x07, 0x01, 0x00, 0x05, 0x41, 0x42, 0x00] 0xC4 0xFF 0x0B) := by decide

theorem test_decode_internal :
    decodeOn .internal [0x50] = .accepted .sendNoconf
    ∧ decodeOn .internal [0x51] = .accepted .sendConf
    ∧ decodeOn .internal [0x52] = .accepted .arqIssue
    ∧ decodeOn .internal [0x53] = .accepted .arqDecide
    ∧ decodeOn .internal [0x54] = .accepted .seqValidate
    ∧ decodeOn .internal [0x55] = .accepted .rdStep
    ∧ decodeOn .internal [0x56] = .accepted .drain
    ∧ decodeOn .wire [0x41, 0x88] = .accepted (.fcfWord 0x8841) := by decide

/-- R115: what is no command. -/
theorem test_decode_rejects :
    decodeOn .command [] = .rejected .noOpcode
    ∧ decodeOn .command [0x2A, 0x02] = .rejected (.unknownOpcode 0x2A)
    ∧ decodeOn .command [0x40] = .rejected .wrongPort
    ∧ decodeOn .command [0x10, 0x05, 0x00, 0x01] = .rejected .tooFew
    ∧ decodeOn .command [0x36, 0x00] = .rejected .tooMany
    ∧ decodeOn .event [0x35] = .rejected .wrongPort := by decide

/-- The table's words as the host numbers them: the opcode is the low byte, operands are zeros. -/
theorem test_table_words :
    decodeTableWord 8 0x29 = some (.rbResize 0 0) ∧ decodeTableWord 8 0x53 = some .arqDecide
    ∧ decodeTableWord 16 0x8841 = some (.fcfWord 0x8841) ∧ decodeTableWord 8 0x57 = none := by decide

/-! ### Value types and codec: the vectors of 95_test_vectors.md, as commands -/

/-- The last response sent. -/
def lastResponse (o : Host.Outcome State Fault Refusal) : List Byte :=
  match o with
  | .next s => s.io.cmdOut.getLast?.getD []
  | _ => []

/-- The response to a command presented on the port of state `s`. -/
def reply (s : State) (msg : List Byte) : List Byte := lastResponse (step (s.place .command msg))

theorem test_addr_len : (reply .reset [0x01, 0x02], reply .reset [0x01, 0x04]) = ([0x00, 2], [0x0A]) := by decide

theorem test_addr_make : (reply .reset [0x02, 0x02, 0x34, 0x12, 0xFF, 0xFF, 0xFF, 0xFF, 0xFF, 0xFF],
    reply .reset [0x02, 0x01, 0, 0, 0, 0, 0, 0, 0, 0]) = ([0x00, 2, 0x34, 0x12], [0x09]) := by decide

/-- V-F9. -/
theorem test_fcf_unpack : reply .reset [0x03, 0x98, 0x2A] = [0x00, 0, 1, 1, 0, 0, 1, 0, 1, 2, 2, 0] := by decide

/-- V-F9 and the refusal below the table. -/
theorem test_fcf_pack : (reply .reset [0x04, 0, 1, 1, 0, 0, 1, 0, 1, 2, 2, 0],
    reply .reset [0x04, 8, 0, 0, 0, 0, 0, 0, 0, 0, 0, 0]) = ([0x00, 0x98, 0x2A], [0x0A]) := by decide

/-- V-C4: every field present, nothing compressed. -/
theorem test_parse_longest_header :
    parse [0x1B, 0x01, 0xCC, 0xFE, 0xEF, 0xBE, 1, 2, 3, 4, 5, 6, 7, 8, 0xFE, 0xCA, 0x11, 0x12, 0x13, 0x14, 0x15, 0x16,
        0x17, 0x18, 0xDE, 0xAD, 0x00]
      = some ⟨0xCC01, 0xFE, 0xBEEF, 0xCAFE, ⟨.extended, [1, 2, 3, 4, 5, 6, 7, 8]⟩,
          ⟨.extended, [0x11, 0x12, 0x13, 0x14, 0x15, 0x16, 0x17, 0x18]⟩, [0xDE, 0xAD]⟩ := by decide

/-- V-C7 (Reserved mode) and V-C6 (compression with no destination). -/
theorem test_parse_reserved_and_compressed :
    parse [0x05, 0x01, 0x04, 0x07, 0x00] = some ⟨0x0401, 7, 0, 0, ⟨.none, []⟩, ⟨.none, []⟩, []⟩
    ∧ parse [0x09, 0x41, 0x80, 0x03, 0xAA, 0xBB, 0x01, 0x02, 0x00]
        = some ⟨0x8041, 3, 0, 0, ⟨.none, []⟩, ⟨.short, [0xAA, 0xBB]⟩, [0x01, 0x02]⟩ := by decide

/-- Program P5, its second line. -/
theorem test_build : reply .reset [0x11, 0x8D, 0x00, 0x41, 0x88, 0x00, 0x34, 0x12, 0x34, 0x12, 0x02, 0, 0, 0, 0, 0, 0, 0,
      0x01, 0, 0, 0, 0, 0, 0, 0, 0x05, 0x48, 0x45, 0x4C, 0x4C, 0x4F]
    = [0x00, 0x10, 0x00, 0x10, 0x41, 0x88, 0x00, 0x34, 0x12, 0x02, 0x00, 0x01, 0x00, 0x48, 0x45, 0x4C, 0x4C, 0x4F,
      0x00] := by decide

/-- V-C5: the source PAN ID of an absent source does not reach the wire. -/
theorem test_build_no_source :
    build ⟨0x0C01, 9, 0xABCD, 0x7777, ⟨.extended, [1, 2, 3, 4, 5, 6, 7, 8]⟩, ⟨.none, []⟩, [0x55]⟩ 16
      = .ok [0x10, 0x01, 0x0C, 0x09, 0xCD, 0xAB, 1, 2, 3, 4, 5, 6, 7, 8, 0x55, 0x00] := by decide

/-! ### The ring buffer: program P2 -/

/-- A ring buffer of capacity `c` holding `bs`. -/
def ringOf (c : Nat) (bs : List Byte) : RingBuffer := (RingBuffer.resize c).writeArray bs

theorem ringOf_wf (c : Nat) (bs : List Byte) (h : c ≤ 65535) : (ringOf c bs).Wf :=
  RingBuffer.writeArray_wf _ _ (RingBuffer.resize_wf c h)

/-- The state of `UB` in P2 after the fourth line: capacity 4, head 2, full, `03 04 05 06`. -/
def p2 : State := { State.reset with ub := ((ringOf 4 [1, 2, 3]).consume 2).writeArray [4, 5, 6, 7] }

theorem test_p2_state : (p2.ub.head, p2.ub.tail, p2.ub.count, p2.ub.store) = (2, 2, 4, [(0, 5), (1, 6), (2, 3), (3, 4)])
    := by decide
theorem test_rb_write_full : reply p2 [0x20, 0x02, 0x08] = [0x00, 0x00] := by decide
theorem test_rb_write : reply { State.reset with ub := ringOf 4 [1] } [0x20, 0x02, 0x08] = [0x00, 0x01] := by decide
theorem test_rb_write_array :
    reply { State.reset with ub := (ringOf 4 [1, 2, 3]).consume 2 } [0x21, 0x02, 0x04, 0x00, 4, 5, 6, 7]
      = [0x00, 0x03, 0x00] := by decide
theorem test_rb_peek : reply p2 [0x24, 0x02] = [0x00, 0x01, 0x03] := by decide
theorem test_rb_available : reply p2 [0x25, 0x02] = [0x00, 0x04, 0x00] := by decide
theorem test_rb_available_for_write : reply p2 [0x26, 0x02] = [0x00, 0x00, 0x00] := by decide
theorem test_rb_is_full : reply p2 [0x27, 0x02] = [0x00, 0x01] := by decide
theorem test_rb_is_empty : reply p2 [0x28, 0x02] = [0x00, 0x00] := by decide
theorem test_rb_read_array : reply p2 [0x23, 0x02, 0x0A, 0x00] = [0x00, 0x04, 0x00, 3, 4, 5, 6] := by decide
theorem test_rb_read_empty : reply { p2 with ub := p2.ub.consume 10 } [0x22, 0x02] = [0x00, 0x00, 0x00] := by decide
theorem test_rb_read : reply p2 [0x22, 0x02] = [0x00, 0x01, 0x03] := by decide
theorem test_rb_resize : (reply p2 [0x29, 0x02, 0x04, 0x00], reply p2 [0x29, 0x01, 0x04, 0x00],
    reply p2 [0x29, 0x03, 0x04, 0x00]) = ([0x00], [0x09], [0x0A]) := by decide

/-! ### Transport: vectors V-T and V-X -/

/-- Configuration C-A of 95_test_vectors.md with a template and two capacities. -/
def confA (tmpl rxCap txCap : Half) : CfgRegs := ⟨0x1234, 2, 0x0001, 2, 0x0002, tmpl, 100, 3, 10, rxCap, txCap⟩

/-- A session with these registers and this inbound queue, and nothing in progress. -/
def session (c : CfgRegs) (txb : RingBuffer) (rx : RxRegs) (inq : List InFrame) : State :=
  { State.reset with
    live := true, cfg := c, tx := { TxRegs.reset with txb := txb }, rx := rx
    env := { State.reset.env with inq := inq } }

/-- The receive registers with an `RXB`, a last accepted number and nothing pending. -/
def received (rxb : RingBuffer) (last : Option Byte) : RxRegs :=
  { RxRegs.reset with rxb := rxb, lastSeqValid := last.isSome, lastSeq := last.getD 0 }

/-- V-T1. -/
theorem test_cfg_write : (reply .reset [0x30, 0x00, 0x34, 0x12, 0, 0, 0, 0, 0, 0],
    reply .reset [0x30, 0x01, 0x01, 0, 0, 0, 0, 0, 0, 0], reply .reset [0x30, 0x0B, 0, 0, 0, 0, 0, 0, 0, 0],
    reply .reset [0x30, 0x00, 0, 0, 0x01, 0, 0, 0, 0, 0]) = ([0x00], [0x09], [0x09], [0x09]) := by decide

theorem test_t_begin : (reply .reset [0x31], reply (session (confA 0x41 4 4) (ringOf 4 []) .reset []) [0x31])
    = ([0x00], [0x09]) := by decide

theorem test_t_end : (reply .reset [0x32], reply (session (confA 0x41 4 4) (ringOf 4 []) .reset []) [0x32])
    = ([0x09], [0x00]) := by decide

theorem test_t_write_refused : reply .reset [0x33, 0x41] = [0x09] := by decide

/-- Program P1: the frame of "HELLO". -/
theorem test_hello_frame :
    wireBytes ((session (confA 0x0041 64 116) (ringOf 116 []) .reset []).txFrameOf [0x48, 0x45, 0x4C, 0x4C, 0x4F])
      = [0x10, 0x41, 0x88, 0x00, 0x34, 0x12, 0x02, 0x00, 0x01, 0x00, 0x48, 0x45, 0x4C, 0x4C, 0x4F, 0x00] := by decide

/-- V-T10: the template suppresses the sequence number. -/
theorem test_suppressed_frame :
    wireBytes ((session (confA 0x0141 64 116) (ringOf 116 []) .reset []).txFrameOf [0x41])
      = [0x0B, 0x41, 0x89, 0x34, 0x12, 0x02, 0x00, 0x01, 0x00, 0x41, 0x00] := by decide

/-- A session with the byte 0x41 staged. -/
def staged (tmpl : Half) : State := session (confA tmpl 64 116) (ringOf 116 [0x41]) .reset []

/-- The frame of program P3. -/
def p3Frame : List Byte := [0x0C, 0x61, 0x88, 0x00, 0x34, 0x12, 0x02, 0x00, 0x01, 0x00, 0x41, 0x00]

/-- Program P3: the flush sets the send up and answers nothing yet. -/
theorem test_t_flush_confirmed : ∃ t, exec .tFlush (staged 0x0061) = .next t ∧ t.tx.frameBytes = p3Frame
    ∧ (t.tx.retriesLeft, t.tx.sendActive, t.tx.outSeq, t.appCmd, t.io.cmdOut) = (3, true, 0, .flush, []) := by
  refine ⟨_, State.drainAndSend_confirmed (staged 0x0061) .flush [] rfl, ?_, rfl⟩
  refine (State.frameBytes_framed (staged 0x0061) _ rfl).trans ?_
  rw [show min (staged 0x0061).tx.txb.count Config.mtu = 1 from Nat.min_eq_left mtu_pos]
  decide

/-- V-T4: the radio refuses an unconfirmed frame; the command is answered all the same. -/
theorem test_t_flush_refused : ∃ t, exec .tFlush (staged 0x0041) = .next t
    ∧ (t.tx.outSeq, t.io.diag, t.io.cmdOut) = (0, [⟨.txFailed, [0]⟩], [[0x00]]) :=
  ⟨_, State.drainAndSend_unconfirmed (staged 0x0041) .flush [] rfl, rfl⟩

/-- With `TX_CAP = 1` every byte is a frame. -/
theorem test_t_write_sends :
    ∃ t, exec (.tWrite 0x41) ((session (confA 0x0041 4 1) (ringOf 1 []) .reset []).answering true) = .next t
      ∧ (t.tx.outSeq, t.tx.txb.count, t.io.cmdOut) = (1, 0, [[0x00, 1]]) := by
  refine ⟨_, State.drainAndSend_unconfirmed
    ((session (confA 0x0041 4 1) (ringOf 1 [0x41]) .reset []).answering true) .write [1] rfl, ?_⟩
  have h : (1 : Nat) - min 1 Config.mtu = 0 := by rw [Nat.min_eq_left mtu_pos]
  exact congrArg (fun n => ((1 : Byte), n, [[(0x00 : Byte), 1]])) h

/-- The latches as `T_WRITE` and `T_FLUSH` leave them for the internal operations. -/
def withChunk (s : State) (c : List Byte) : State := { s with latch := { s.latch with chunk := some c } }

theorem test_drain : ∃ t, exec .drain (staged 0x41).requestDrain = .next t ∧ t.theChunk = [0x41] := by
  refine ⟨_, rfl, ?_⟩
  rw [State.drainTxb_chunk]
  rw [show min (staged 0x41).requestDrain.tx.txb.count Config.mtu = 1 from Nat.min_eq_left mtu_pos]
  decide

theorem test_send_conf : ∃ t, exec .sendConf (withChunk (staged 0x0061) [0x41]) = .next t
    ∧ (t.tx.retriesLeft, t.tx.sendActive, t.tx.txFrameLen) = (3, true, 12) :=
  ⟨_, State.startSendConf_of_fits (withChunk (staged 0x0061) [0x41]) (State.fits_of_mtu _ [0x41] mtu_pos), by decide⟩

theorem test_send_noconf : ∃ t, exec .sendNoconf ((withChunk (staged 0x0061) [0x41]).answering true) = .next t
    ∧ (t.tx.outSeq, t.io.txCalls) = (1, [⟨p3Frame, true⟩]) :=
  ⟨_, State.startSendNoconf_of_fits ((withChunk (staged 0x0061) [0x41]).answering true)
    (State.fits_of_mtu _ [0x41] mtu_pos), by decide⟩

/-- A confirmed send of `p3Frame` in progress, its attempt in state `a`, with `n` of the budget left. -/
def sending (a : ArqState) (n : Nat) : State :=
  { session (confA 0x0061 0 116) (ringOf 116 []) .reset [] with
    appCmd := .flush
    tx := { TxRegs.reset with
      txb := ringOf 116 [], sendActive := true, arqState := a, ackTimerArmed := decide (a = .waiting), retriesLeft := n
      txFrame := Memory.writeBytes [] 0 p3Frame, txFrameLen := 12 } }

/-- What a step leaves, where it goes on. -/
def after {α : Type} (o : Host.Outcome State Fault Refusal) (f : State → α) : Option α :=
  match o with
  | .next s => some (f s)
  | _ => none

theorem test_arq_issue_taken : after (exec .arqIssue ((sending .idle 3).answering true))
      (fun t => (t.tx.arqState, t.tx.ackTimerArmed, t.io.txCalls))
    = some (.waiting, true, [⟨p3Frame, true⟩]) := by decide
theorem test_arq_issue_refused : after (exec .arqIssue ((sending .idle 3).answering false))
      (fun t => (t.tx.arqState, t.tx.ackTimerArmed, t.io.diag)) = some (.failed, false, [⟨.txFailed, [0]⟩]) := by decide

theorem test_ev_tx_done : after (exec .evTxDone (sending .waiting 3)) (fun t => (t.tx.arqState, t.tx.ackTimerArmed))
    = some (.confirmed, false) := by decide
/-- V-T8. -/
theorem test_ev_tx_done_idle : after (exec .evTxDone (sending .idle 3)) (fun t => t.tx.arqState) = some .idle := by
  decide
theorem test_ev_tx_failed : after (exec (.evTxFailed 7) (sending .waiting 3)) (fun t => (t.tx.arqState, t.io.diag))
    = some (.failed, [⟨.txFailed, [7]⟩]) := by decide
theorem test_ev_tx_failed_late : after (exec (.evTxFailed 9) (sending .confirmed 3))
    (fun t => (t.tx.arqState, t.io.diag)) = some (.confirmed, []) := by decide
theorem test_ev_ack_timeout : after (exec .evAckTimeout (sending .waiting 3))
    (fun t => (t.tx.arqState, t.tx.ackTimerArmed, t.io.diag)) = some (.failed, false, [⟨.ackTimeout, [0]⟩]) := by decide
theorem test_ev_ack_timeout_disarmed : after (exec .evAckTimeout (sending .confirmed 3)) (fun t => t.tx.arqState)
    = some .confirmed := by decide

/-- Program P3, the first retry decision. -/
theorem test_arq_decide_retry : after (exec .arqDecide (sending .failed 3))
      (fun t => (t.tx.retriesLeft, t.tx.arqState, t.tx.delayArmed, t.tx.outSeq)) = some (2, .idle, true, 0) := by decide
/-- Program P3, the last one: the frame is dropped and the flush answered. -/
theorem test_arq_decide_dropped : after (exec .arqDecide (sending .failed 1))
      (fun t => (t.tx.outSeq, t.appCmd, t.io.diag, t.io.cmdOut)) = some (1, .none, [⟨.dropped, [0]⟩], [[0x00]]) := by decide

theorem test_ev_retry_delay_done :
    after (exec .evRetryDelayDone { sending .idle 2 with tx := { (sending .idle 2).tx with delayArmed := true } })
      (fun t => t.tx.delayArmed) = some false := by decide

/-- A frame of F(s, payload) in section 2.5, with the metadata of program P4. -/
def frameF (s : Byte) (payload : List Byte) : InFrame :=
  ⟨BitVec.ofNat 8 (payload.length + 5) :: 0x01 :: 0x00 :: s :: (payload ++ [0x00]), 0xC4, 0xFF, 0x0B⟩

/-- A session that receives into an `RXB`, with a last accepted number and an inbound queue. -/
def receiver (rxb : RingBuffer) (last : Option Byte) (inq : List InFrame) : State :=
  session (confA 0x41 4 4) (ringOf 4 []) (received rxb last) inq

/-- V-X4: a gap is delivered with a notice. -/
theorem test_t_receive_gap : after (exec .tReceive (receiver (ringOf 4 []) (some 201) [frameF 205 [0x44]]))
      (fun t => (t.io.cmdOut, t.rx.lastSeq, t.io.diag, t.rx.rxb.content))
    = some ([[0x00, 1]], 205, [⟨.seqGap, [201, 205]⟩], [0x44]) := by decide
/-- V-X10: what does not fit is held. -/
theorem test_t_receive_backpressure :
    after (exec .tReceive (receiver (ringOf 4 [1, 2, 3]) (some 1) [frameF 2 [0x61, 0x62]]))
      (fun t => (t.io.cmdOut, t.rx.lastSeq, t.rx.pendValid, t.rx.pendLen, t.rx.pendOff, t.rx.rxb.count))
    = some ([[0x04, 0]], 2, true, 2, 0, 3) := by decide

theorem test_seq_validate_wrap : after (exec .seqValidate
      ((receiver (ringOf 4 []) (some 255) []).offerFrame ⟨0x0001, 0, 0, 0, ⟨.none, []⟩, ⟨.none, []⟩, [0x46]⟩))
      (fun t => (t.latch.verdict, t.rx.lastSeq, t.io.diag)) = some (some .accept, 0, []) := by decide
theorem test_seq_validate_duplicate : after (exec .seqValidate
      ((receiver (ringOf 4 []) (some 5) []).offerFrame ⟨0x0001, 5, 0, 0, ⟨.none, []⟩, ⟨.none, []⟩, [0x46]⟩))
      (fun t => (t.latch.verdict, t.rx.lastSeq, t.io.diag)) = some (some .duplicate, 5, [⟨.duplicate, [5]⟩]) := by decide

/-- Program P4, line 6. -/
theorem test_t_read_bytes : after (exec (.tReadBytes 3 1000) (receiver (ringOf 4 [0x41, 0x42, 0x43, 0x44]) (some 7) []))
      (fun t => (t.io.cmdOut, t.rx.rxb.content)) = some ([[0x00, 3, 0, 0x41, 0x42, 0x43]], [0x44]) := by decide
/-- Program P4, line 9. -/
theorem test_t_read_bytes_waits :
    after (exec (.tReadBytes 6 1000) (receiver (ringOf 4 [0x44, 0x45, 0x46, 0x47]) (some 7) []))
      (fun t => (t.io.cmdOut, t.appCmd, t.rd.got, t.rd.timerArmed, t.rx.rxb.count))
    = some ([], .read, 4, true, 0) := by decide
theorem test_t_read : after (exec .tRead (receiver (ringOf 4 [0x44]) (some 7) [])) (fun t => t.io.cmdOut)
    = some [[0x00, 1, 0, 0x44]] := by decide

/-- A read of 6 bytes with four collected, its timer armed or fired. -/
def reading (expired : Bool) (inq : List InFrame) : State :=
  { receiver (ringOf 4 []) (some 7) inq with
    appCmd := .read, rd := ⟨true, 6, 4, [0x44, 0x45, 0x46, 0x47], !expired, expired⟩ }

theorem test_rd_step_expired : after (exec .rdStep (reading true []))
      (fun t => (t.io.cmdOut, t.rd.active, t.appCmd))
    = some ([[0x00, 4, 0, 0x44, 0x45, 0x46, 0x47]], false, .none) := by decide
theorem test_rd_step_completes : after (exec .rdStep (reading false [frameF 8 [0x48, 0x49, 0x4A]]))
      (fun t => (t.io.cmdOut, t.rx.rxb.content))
    = some ([[0x00, 6, 0, 0x44, 0x45, 0x46, 0x47, 0x48, 0x49]], [0x4A]) := by decide
theorem test_ev_read_timeout : after (exec .evReadTimeout (reading false []))
    (fun t => (t.rd.expired, t.rd.timerArmed)) = some (true, false) := by decide

/-- V-X14. -/
theorem test_t_available : reply (receiver (ringOf 4 [1, 2]) none []) [0x38] = [0x00, 2, 0] := by decide
theorem test_t_meta : reply (receiver (ringOf 4 []) none []) [0x39] = [0x00, 0, 0, 0, 0] := by decide
/-- Program P4, the last line. -/
theorem test_t_meta_latched : after (exec .tReceive (receiver (ringOf 4 []) none [frameF 5 [0x41]]))
    (fun t => reply t [0x39]) = some [0x00, 1, 0xC4, 0xFF, 0x0B] := by decide
theorem test_ev_rx_enqueue : after (exec (.evRxEnqueue [3, 1, 0] 0xC4 0xFF 0x0B) (receiver (ringOf 4 []) none [frameF 5 []]))
    (fun t => t.env.inq.map (·.raw)) = some [[5, 1, 0, 5, 0], [3, 1, 0]] := by decide

/-! ### Witnesses: states that have the invariant -/

/-- What of the invariant evaluates on a concrete state. -/
abbrev State.Plain (s : State) : Prop :=
  (s.rx.pendBuf.wf = true ∧ s.rx.pendBuf.within Config.pendMax = true)
  ∧ (s.rx.pendValid = true → s.rx.pendOff < s.rx.pendLen ∧ s.rx.pendLen ≤ Config.pendMax)
  ∧ s.tx.retriesLeft ≤ 255
  ∧ s.tx.ackTimerArmed = decide (s.tx.arqState = .waiting)
  ∧ (s.tx.arqState ≠ .idle → s.tx.sendActive = true)
  ∧ (s.tx.delayArmed = true → s.tx.sendActive = true ∧ s.tx.arqState = .idle)
  ∧ (s.tx.sendActive = true ↔ s.appCmd = .write ∨ s.appCmd = .flush)
  ∧ (s.rd.active = true ↔ s.appCmd = .read)
  ∧ (s.appCmd ≠ .none → s.live = true)
  ∧ s.rd.got = s.rd.data.length
  ∧ (s.rd.active = true → s.rd.got < s.rd.want)
  ∧ (s.rd.active = true → s.rd.timerArmed = !s.rd.expired)
  ∧ (s.rd.active = false → s.rd.timerArmed = false ∧ s.rd.expired = false)
  ∧ s.latch = .clear
  ∧ (s.cfg.localAddrMode ≠ 1 ∧ s.cfg.destAddrMode ≠ 1)
  ∧ (s.live = true → s.tx.txb.cap = s.cfg.txCap.toNat ∧ s.rx.rxb.cap = s.cfg.rxCap.toNat)
  ∧ (s.live = false → s.tx.txb.cap = 0 ∧ s.rx.rxb.cap = 0 ∧ s.tx.outSeq = 0 ∧ s.tx.txFrameLen = 0
    ∧ s.rx.lastSeqValid = false ∧ s.rx.pendValid = false ∧ s.rx.metaValid = false)

/-- The invariant, from what evaluates and what does not. -/
theorem State.inv_of_plain (s : State) (hu : s.ub.Wf) (ht : s.tx.txb.Wf) (hr : s.rx.rxb.Wf)
    (hf : s.tx.txFrame.wf = true ∧ s.tx.txFrame.within Config.frameMax = true)
    (hl : s.tx.txFrameLen ≤ Config.frameMax)
    (hs : s.tx.txb.count < Config.mtu ∧ (1 ≤ s.tx.txb.cap → s.tx.txb.count < s.tx.txb.cap)) (h : s.Plain) :
    s.Inv := by
  obtain ⟨h1, h2, h3, h4, h5, h6, h7, h8, h9, h10, h11, h12, h13, h14, h15, h16, h17⟩ := h
  exact ⟨hu, ht, hr, h1, hf, hl, h2, h3, h4, h5, h6, h7, h8, h9, h10, h11, h12, h13, h14, h15, h16, hs, h17⟩

/-- No session, `UB` in use. -/
def noSession : State := { State.reset with ub := ringOf 4 [1, 2] }

theorem noSession_inv : noSession.Inv :=
  noSession.inv_of_plain (ringOf_wf 4 _ (by decide)) RingBuffer.empty_wf RingBuffer.empty_wf ⟨rfl, rfl⟩
    (Nat.zero_le _) ⟨mtu_pos, by decide⟩ (by decide)

/-- A session with nothing staged, from its configuration and its receive side. -/
theorem session_inv (c : CfgRegs) (rx : RxRegs) (inq : List InFrame) (hr : rx.rxb.Wf)
    (h : (session c (ringOf c.txCap.toNat []) rx inq).Plain) : (session c (ringOf c.txCap.toNat []) rx inq).Inv := by
  have hc := c.txCap.isLt
  refine State.inv_of_plain _ RingBuffer.empty_wf (ringOf_wf _ _ (by omega)) hr ⟨rfl, rfl⟩ (Nat.zero_le _) ⟨?_, ?_⟩ h
  · exact mtu_pos
  · exact fun h => h

/-- A receiving session whose `RXB` has capacity 4. -/
theorem receiver_inv (bs : List Byte) (last : Option Byte) (inq : List InFrame)
    (h : (receiver (ringOf 4 bs) last inq).Plain) : (receiver (ringOf 4 bs) last inq).Inv :=
  session_inv (confA 0x41 4 4) (received (ringOf 4 bs) last) inq (ringOf_wf 4 bs (by decide)) h

/-- A session of transmit capacity `c`. -/
def sender (tmpl c : Half) : State := session (confA tmpl 4 c) (ringOf c.toNat []) (received (ringOf 4 []) none) []

theorem sender_inv (tmpl c : Half) (h : (sender tmpl c).Plain) : (sender tmpl c).Inv :=
  session_inv (confA tmpl 4 c) (received (ringOf 4 []) none) [] (ringOf_wf 4 [] (by decide)) h

/-- A session in which one byte less than a frame's worth is staged. -/
def almostFull (tmpl : Half) : State :=
  session (confA tmpl 4 1000) ⟨1000, 0, Config.mtu - 1, Config.mtu - 1, []⟩ (received (ringOf 4 []) none) []

theorem almostFull_inv (tmpl : Half) : (almostFull tmpl).Inv := by
  have h1 := mtu_pos
  have h2 := mtu_le
  have hw : (⟨1000, 0, Config.mtu - 1, Config.mtu - 1, []⟩ : RingBuffer).Wf :=
    ⟨by decide, by show Config.mtu - 1 ≤ 1000; omega, fun h => absurd h (by decide), fun _ => by decide,
      fun _ => by show Config.mtu - 1 = (0 + (Config.mtu - 1)) % 1000; omega, rfl, rfl⟩
  refine State.inv_of_plain _ RingBuffer.empty_wf hw (ringOf_wf 4 [] (by decide)) ⟨rfl, rfl⟩ (Nat.zero_le _)
    ⟨by show Config.mtu - 1 < Config.mtu; omega, fun _ => by show Config.mtu - 1 < 1000; omega⟩ ?_
  refine ⟨⟨rfl, rfl⟩, ?_⟩
  simp [almostFull, session, received, confA, State.reset, RxRegs.reset, RdRegs.reset, TxRegs.reset, ringOf,
    RingBuffer.resize]

/-- A session with a pending frame of two bytes, the first of them written, and `RXB` holding `bs`. -/
def pendingState (bs : List Byte) : State :=
  session (confA 0x41 4 4) (ringOf 4 [])
    { received (ringOf 4 bs) (some 2) with
      pendValid := true, pendBuf := Memory.writeBytes [] 0 [0x61, 0x62], pendLen := 2, pendOff := 1 } []

theorem pendingState_inv (bs : List Byte) (h : (pendingState bs).Plain) : (pendingState bs).Inv :=
  session_inv (confA 0x41 4 4) _ [] (ringOf_wf 4 bs (by decide)) h

theorem sending_inv (a : ArqState) (n : Nat) (h : (sending a n).Plain) : (sending a n).Inv := by
  have h1 := mtu_pos
  have hw : Memory.within Config.frameMax (Memory.writeBytes [] 0 p3Frame) = true :=
    Memory.within_writeBytes p3Frame _ 0 [] (by rw [frameMax_eq]; show 0 + 12 ≤ Config.mtu + 25; omega) rfl
  exact State.inv_of_plain _ RingBuffer.empty_wf (ringOf_wf 116 [] (by decide)) RingBuffer.empty_wf
    ⟨by simp only [sending]; decide, hw⟩ (by rw [frameMax_eq]; show 12 ≤ Config.mtu + 25; omega) ⟨h1, fun _ => by
      simp only [sending]; decide⟩ h

theorem reading_inv (expired : Bool) (inq : List InFrame) (h : (reading expired inq).Plain) :
    (reading expired inq).Inv :=
  State.inv_of_plain _ RingBuffer.empty_wf (ringOf_wf 4 [] (by decide)) (ringOf_wf 4 [] (by decide)) ⟨rfl, rfl⟩
    (Nat.zero_le _) ⟨mtu_pos, fun _ => by simp only [reading, receiver, session]; decide⟩ h

/-! ### Witnesses: steps and encodings -/

theorem witness_HardwareReset :
    ({ State.reset with io := { State.reset.io with schedule := [⟨.reset, true⟩] } } : State).io.schedule
      = ⟨.reset, true⟩ :: [] := rfl

/-- The wait of a send, about to be ended by its timeout. -/
def timingOut : State := (sending .waiting 3).place .event [0x42]

theorem timingOut_inv : timingOut.Inv := State.inv_withIo _ _ (sending_inv .waiting 3 (by decide))

theorem witness_StepKeepsInvariant : timingOut.Inv ∧ ∃ t, step timingOut = .next t := ⟨timingOut_inv, _, rfl⟩

theorem witness_StepRunsDecodedInstruction :
    ((State.reset.place .command [0x31]).io.schedule = ⟨.command, false⟩ :: []
      ∧ (State.reset.place .command [0x31]).appCmd = .none
      ∧ (State.reset.place .command [0x31]).io.cmdPort = [0x31] :: [] ∧ decodeOn .command [0x31] = .accepted .tBegin)
    ∧ (timingOut.io.schedule = ⟨.event, false⟩ :: [] ∧ timingOut.io.evPort = [0x42] :: []
      ∧ decodeOn .event [0x42] = .accepted .evAckTimeout)
    ∧ ((State.reset.place .internal [0x55]).io.schedule = ⟨.internal 0x55, false⟩ :: []
      ∧ decodeOn .internal [0x55] = .accepted .rdStep) := by decide

theorem witness_StepWithoutInstruction :
    noSession.io.schedule = []
    ∧ (((sending .idle 3).place .command [0x34]).io.schedule = ⟨.command, false⟩ :: []
      ∧ ((sending .idle 3).place .command [0x34]).appCmd ≠ .none)
    ∧ (({ State.reset with io := { State.reset.io with schedule := [⟨.command, true⟩] } } : State).io.schedule
        = ⟨.command, true⟩ :: []
      ∧ ({ State.reset with io := { State.reset.io with schedule := [⟨.command, true⟩] } } : State).io.cmdPort = [])
    ∧ ((State.reset.place .command [0x05]).io.cmdPort = [0x05] :: []
      ∧ decodeOn .command [0x05] = .rejected (.unknownOpcode 0x05))
    ∧ ((State.reset.place .event [0x41, 0x07]).io.evPort = [0x41, 0x07] :: []
      ∧ decodeOn .event [0x41, 0x07] = .rejected .tooFew) := by decide

theorem witness_DecodeEncodeAgree :
    (Instr.addrMake 3 [1, 2, 3, 4, 5, 6, 7, 8]).WellFormed ∧ (Instr.parse [3, 1, 0]).WellFormed := by decide

theorem witness_OnlyEncodingsAreAccepted : decodeOn .command [0x23, 0x02, 0x0A, 0x00] = .accepted (.rbReadArray 2 10) := by
  decide

/-! ### Witnesses: value types and codec -/

theorem witness_AddrLenResult : State.reset.appCmd = .none ∧ 3 < (4 : Byte).toNat := by decide

theorem witness_AddrMakeResult :
    State.reset.appCmd = .none ∧ ([1, 2, 3, 4, 5, 6, 7, 8] : List Byte).length = 8 ∧ 3 < (4 : Byte).toNat := by decide

theorem witness_FcfUnpackResult : noSession.appCmd = .none := rfl

theorem witness_FcfPackResult :
    State.reset.appCmd = .none
    ∧ fcfInRange ⟨7, 1, 1, 1, 1, 1, 1, 1, 3, 3, 3⟩ = true ∧ fcfInRange ⟨7, 1, 1, 1, 1, 1, 1, 1, 3, 3, 4⟩ = false := by
  decide

theorem witness_FcfLaws : (0x8841 : Half) ≠ 0xBAFE
    ∧ ∀ i ∈ [6, 8, 10, 11, 14, 15], (0x8841 : Half).getLsbD i = (0xBAFE : Half).getLsbD i := by decide

theorem witness_ParseAcceptsExactly :
    let raw : List Byte := [0x04, 0x01, 0x01, 0x00]
    let raw' : List Byte := [0x04, 0x01, 0x01, 0x99, 0x77]
    raw.getD 0 0 = raw'.getD 0 0 ∧ (raw.getD 0 0).toNat ≤ raw.length ∧ (raw.getD 0 0).toNat ≤ raw'.length
      ∧ ∀ x, 1 ≤ x → x + 1 < (raw.getD 0 0).toNat → raw.getD x 0 = raw'.getD x 0 := by
  refine ⟨rfl, by decide, by decide, fun x h1 h2 => ?_⟩
  have h3 : x + 1 < 4 := h2
  obtain rfl | rfl : x = 1 ∨ x = 2 := by omega
  · rfl
  · rfl

/-- The frame of V-C1. -/
def helloFrame : Frame :=
  ⟨0x8841, 0, 0x1234, 0x1234, ⟨.short, [0x02, 0x00]⟩, ⟨.short, [0x01, 0x00]⟩, [0x48, 0x45, 0x4C, 0x4C, 0x4F]⟩

/-- The bytes of V-C1. -/
def helloBytes : List Byte :=
  [0x10, 0x41, 0x88, 0x00, 0x34, 0x12, 0x02, 0x00, 0x01, 0x00, 0x48, 0x45, 0x4C, 0x4C, 0x4F, 0x00]

theorem witness_ParseCommandAnswers :
    State.reset.appCmd = .none ∧ parse [0x03, 0x01, 0x00] = none ∧ parse helloBytes = some helloFrame := by decide

theorem witness_ParseFieldPlaces : parse helloBytes = some helloFrame := by decide

theorem witness_CodecRoundTrip :
    (helloFrame.Wf ∧ build helloFrame 16 = .ok helloBytes) ∧ parse helloBytes = some helloFrame := by decide

theorem witness_BuildResult :
    (State.reset.appCmd = .none ∧ (List.replicate 8 (0 : Byte)).length = 8 ∧ (List.replicate 252 (0 : Byte)).length < 256
      ∧ 255 < 2 + hdrLen 0x0100 + (List.replicate 252 (0 : Byte)).length)
    ∧ (2 + hdrLen 0x0100 + (List.replicate 251 (0 : Byte)).length ≤ 255
      ∧ 2 + hdrLen 0x0100 + (List.replicate 251 (0 : Byte)).length ≤ (255 : Half).toNat
      ∧ (254 : Half).toNat < 2 + hdrLen 0x0100 + (List.replicate 251 (0 : Byte)).length)
    ∧ (helloFrame.dest.mode ≠ modeOf (destModeOf 0x0041))
    ∧ (helloFrame.dest.mode = modeOf (destModeOf helloFrame.fcf) ∧ helloFrame.src.mode = modeOf (srcModeOf helloFrame.fcf)
      ∧ 15 < 2 + hdrLen helloFrame.fcf + helloFrame.payload.length) := by
  simp only [List.length_replicate]; decide

theorem witness_BuiltFrameShape : helloFrame.Wf ∧ build helloFrame 16 = .ok helloBytes := by decide

/-! ### Witnesses: ring buffer -/

theorem p2_wf : p2.ub.Wf :=
  RingBuffer.writeArray_wf _ _ (RingBuffer.consume_wf _ _ (ringOf_wf 4 [1, 2, 3] (by decide)))

theorem witness_RingCommandsNeedUserBuffer :
    p2.appCmd = .none ∧ (1 : Byte) ≠ 2 ∧ (3 : Byte) ≠ 2 := by decide

theorem witness_RbWriteResult :
    (p2.appCmd = .none ∧ p2.ub.Wf ∧ p2.ub.count = p2.ub.cap)
    ∧ (noSession.appCmd = .none ∧ noSession.ub.Wf ∧ noSession.ub.count < noSession.ub.cap) :=
  ⟨⟨rfl, p2_wf, by decide⟩, rfl, noSession_inv.ub, by decide⟩

theorem witness_RbWriteArrayResult :
    ([4, 5, 6, 7] : List Byte).length < 65536 ∧ noSession.appCmd = .none ∧ noSession.ub.Wf :=
  ⟨by decide, rfl, noSession_inv.ub⟩

theorem witness_RbReadAndPeekResult :
    (State.reset.appCmd = .none ∧ State.reset.ub.Wf ∧ State.reset.ub.count = 0)
    ∧ (p2.appCmd = .none ∧ p2.ub.Wf ∧ 0 < p2.ub.count) :=
  ⟨⟨rfl, RingBuffer.empty_wf, rfl⟩, rfl, p2_wf, by decide⟩

theorem witness_RbReadArrayResult : p2.appCmd = .none ∧ p2.ub.Wf := ⟨rfl, p2_wf⟩

theorem witness_RbQueriesResult : p2.appCmd = .none := rfl

theorem witness_RbResizeResult : p2.appCmd = .none := rfl

theorem witness_RingIsFifo :
    p2.ub.Wf ∧ (ringRun p2.ub [.read, .write 8]).rb.accepts ([9] : List Byte).length < ([9] : List Byte).length :=
  ⟨p2_wf, by decide⟩

theorem witness_RingBulkIsSingles : p2.ub.Wf := p2_wf

theorem witness_RingInvariants : p2.ub.Wf ∧ 1 ≤ (ringRun p2.ub [.read, .write 8]).rb.cap := ⟨p2_wf, by decide⟩

/-! ### Witnesses: configuration, session, sending -/

theorem witness_CfgWriteResult :
    (noSession.appCmd = .none ∧ noSession.live = false)
    ∧ (10 < (11 : Byte).toNat ∧ cfgRefused 11 0 = true)
    ∧ (cfgRefused 7 256 = true ∧ cfgRefused 7 255 = false)
    ∧ (cfgRefused 3 1 = true ∧ cfgRefused 3 2 = false)
    ∧ (sender 0x41 4).live = true := by decide

theorem witness_TBeginResult :
    (noSession.appCmd = .none ∧ noSession.live = false)
    ∧ ((sender 0x41 4).appCmd = .none ∧ (sender 0x41 4).live = true) := by decide

theorem witness_TEndResult :
    (noSession.appCmd = .none ∧ noSession.live = false)
    ∧ ((sender 0x41 4).appCmd = .none ∧ (sender 0x41 4).live = true) := by decide

theorem witness_SessionsDoNotLeak :
    let s := sender 0x41 4
    let s0 : State := { noSession with cfg := confA 0x41 4 4 }
    s.live = true ∧ s.appCmd = .none ∧ s0.live = false ∧ s0.appCmd = .none ∧ s.cfg = s0.cfg := by decide

/-- The staging clause holds of no state exactly when every byte is a frame. -/
theorem witness_TWriteStages :
    (noSession.Inv ∧ noSession.appCmd = .none ∧ noSession.live = false)
    ∧ ((sender 0x41 0).Inv ∧ (sender 0x41 0).appCmd = .none ∧ (sender 0x41 0).live = true
      ∧ (sender 0x41 0).tx.txb.cap = 0)
    ∧ (Config.mtu = 1 ∨ (sender 0x41 2).Inv ∧ (sender 0x41 2).appCmd = .none ∧ (sender 0x41 2).live = true
      ∧ (sender 0x41 2).tx.txb.count + 1 < (sender 0x41 2).tx.txb.cap
      ∧ (sender 0x41 2).tx.txb.count + 1 < Config.mtu) := by
  refine ⟨⟨noSession_inv, rfl, rfl⟩, ⟨sender_inv _ _ (by decide), rfl, rfl, rfl⟩, ?_⟩
  have h := mtu_pos
  by_cases hm : Config.mtu = 1
  · exact .inl hm
  · exact .inr ⟨sender_inv _ _ (by decide), rfl, rfl, by decide, by show 1 < Config.mtu; omega⟩

theorem witness_TWriteSends :
    ((sender 0x61 1).Inv ∧ (sender 0x61 1).appCmd = .none ∧ (sender 0x61 1).live = true
      ∧ 1 ≤ (sender 0x61 1).tx.txb.cap ∧ (sender 0x61 1).tx.txb.count + 1 = (sender 0x61 1).tx.txb.cap
      ∧ (sender 0x61 1).cfg.fcfTmpl.getLsbD 5 = true)
    ∧ ((almostFull 0x41).Inv ∧ (almostFull 0x41).appCmd = .none ∧ (almostFull 0x41).live = true
      ∧ 1 ≤ (almostFull 0x41).tx.txb.cap ∧ (almostFull 0x41).tx.txb.count + 1 = Config.mtu
      ∧ (almostFull 0x41).cfg.fcfTmpl.getLsbD 5 = false ∧ (almostFull 0x41).io.txAnswer = false)
    ∧ (((sender 0x41 1).answering true).Inv ∧ ((sender 0x41 1).answering true).tx.txb.count + 1
        = ((sender 0x41 1).answering true).tx.txb.cap
      ∧ ((sender 0x41 1).answering true).cfg.fcfTmpl.getLsbD 5 = false
      ∧ ((sender 0x41 1).answering true).io.txAnswer = true) := by
  have h := mtu_pos
  refine ⟨⟨sender_inv _ _ (by decide), rfl, rfl, by decide, rfl, rfl⟩,
    ⟨almostFull_inv _, rfl, rfl, by decide, ?_, rfl, rfl⟩,
    State.inv_withIo _ _ (sender_inv _ _ (by decide)), rfl, rfl, rfl⟩
  show Config.mtu - 1 + 1 = Config.mtu
  omega

theorem witness_TFlushResult :
    (noSession.appCmd = .none ∧ noSession.latch = .clear ∧ noSession.tx.txFrame.wf = true ∧ noSession.live = false)
    ∧ ((sender 0x41 4).appCmd = .none ∧ (sender 0x41 4).latch = .clear ∧ (sender 0x41 4).tx.txFrame.wf = true
      ∧ (sender 0x41 4).live = true ∧ (sender 0x41 4).tx.txb.count = 0)
    ∧ ((staged 0x61).appCmd = .none ∧ (staged 0x61).latch = .clear ∧ (staged 0x61).tx.txFrame.wf = true
      ∧ (staged 0x61).live = true ∧ 0 < (staged 0x61).tx.txb.count ∧ (staged 0x61).tx.txb.count ≤ Config.mtu
      ∧ (staged 0x61).cfg.fcfTmpl.getLsbD 5 = true)
    ∧ (((staged 0x41).answering true).cfg.fcfTmpl.getLsbD 5 = false ∧ ((staged 0x41).answering true).io.txAnswer = true)
    ∧ ((staged 0x41).cfg.fcfTmpl.getLsbD 5 = false ∧ (staged 0x41).io.txAnswer = false) :=
  ⟨by decide, by decide, ⟨rfl, rfl, rfl, rfl, by decide, mtu_pos, rfl⟩, by decide, by decide⟩

theorem witness_TransportFrame : (staged 0x61).tx.txFrame.wf = true ∧ ([0x41] : List Byte).length ≤ Config.mtu :=
  ⟨rfl, mtu_pos⟩

theorem witness_DrainResult :
    (staged 0x61).requestDrain.latch.drainReq = true ∧ 1 ≤ (staged 0x61).requestDrain.tx.txb.count := by decide

theorem witness_SendSetUps :
    let s := withChunk (staged 0x61) [0x41]
    let s' := withChunk (staged 0x61) (List.replicate 256 0x41)
    (s.latch.chunk = some [0x41] ∧ s.tx.txFrame.wf = true ∧ s.tx.arqState = .idle ∧ s.tx.sendActive = false
      ∧ s.io.txAnswer = false ∧ (s.answering true).io.txAnswer = true
      ∧ 2 + hdrLen (s.txFrameOf [0x41]).fcf + ([0x41] : List Byte).length ≤ Config.frameMax)
    ∧ (s'.latch.chunk = some (List.replicate 256 0x41) ∧ s'.tx.txFrame.wf = true
      ∧ Config.frameMax < 2 + hdrLen (s'.txFrameOf (List.replicate 256 0x41)).fcf
          + (List.replicate 256 (0x41 : Byte)).length) := by
  refine ⟨⟨rfl, rfl, rfl, rfl, rfl, rfl, State.fits_of_mtu _ _ mtu_pos⟩, rfl, rfl, ?_⟩
  have := frameMax_le
  rw [List.length_replicate]
  omega

theorem witness_ArqIssueResult :
    let s := sending .idle 3
    s.live = true ∧ s.tx.sendActive = true ∧ s.tx.arqState = .idle ∧ s.tx.delayArmed = false
      ∧ s.io.txAnswer = false ∧ (s.answering true).io.txAnswer = true := by decide

theorem witness_TransmitReports :
    ((sending .waiting 3).live = true ∧ (sending .waiting 3).tx.arqState = .waiting)
    ∧ ¬ (noSession.live = true ∧ noSession.tx.arqState = .waiting) := by decide

theorem witness_TimerEvents :
    (sending .waiting 3).tx.ackTimerArmed = true
    ∧ ({ sending .idle 2 with tx := { (sending .idle 2).tx with delayArmed := true } } : State).tx.delayArmed = true
    ∧ (reading false []).rd.timerArmed = true := by decide

theorem witness_ArqDecideResult :
    ((sending .confirmed 3).tx.sendActive = true ∧ (sending .confirmed 3).tx.arqState = .confirmed)
    ∧ ((sending .failed 1).tx.sendActive = true ∧ (sending .failed 1).tx.arqState = .failed
      ∧ (sending .failed 1).tx.retriesLeft ≤ 1)
    ∧ ((sending .failed 2).tx.sendActive = true ∧ (sending .failed 2).tx.arqState = .failed
      ∧ 2 ≤ (sending .failed 2).tx.retriesLeft) := by decide

theorem witness_DisabledStepsDoNothing :
    (¬ (noSession.live = true ∧ noSession.tx.sendActive = true ∧ noSession.tx.arqState = .idle
      ∧ noSession.tx.delayArmed = false))
    ∧ ¬ (noSession.tx.sendActive = true
      ∧ (noSession.tx.arqState = .confirmed ∨ noSession.tx.arqState = .failed))
    ∧ noSession.rd.active = false ∧ noSession.tx.ackTimerArmed = false ∧ noSession.tx.delayArmed = false
    ∧ noSession.rd.timerArmed = false ∧ noSession.latch.chunk = none ∧ noSession.latch.drainReq = false
    ∧ noSession.latch.rxFrame = none
    ∧ (Instr.tFlush.port = .command ∧ (sending .idle 3).appCmd ≠ .none) := by decide

theorem witness_OnlyReportsEndTheWait :
    timingOut.Inv ∧ timingOut.tx.arqState = .waiting
      ∧ ∃ t, step timingOut = .next t ∧ t.tx.arqState ≠ .waiting := ⟨timingOut_inv, rfl, _, rfl, by decide⟩

theorem witness_OutSeqAdvances : (sending .confirmed 3).Inv ∧ ∃ t, exec .arqDecide (sending .confirmed 3) = .next t :=
  ⟨sending_inv .confirmed 3 (by decide), _, rfl⟩

theorem witness_RetriesExhaust :
    let s := staged 0x61
    let ks : List AttemptFailure := [.reported 7, .timedOut, .refusedByRadio]
    s.live = true ∧ s.appCmd = .none ∧ s.tx.sendActive = false ∧ s.tx.arqState = .idle ∧ s.tx.delayArmed = false
      ∧ s.tx.txFrame.wf = true ∧ 0 < s.tx.txb.count ∧ s.tx.txb.count ≤ Config.mtu
      ∧ s.cfg.fcfTmpl.getLsbD 5 = true ∧ ks ≠ [] ∧ ks.length ≤ max 1 s.cfg.retryCount.toNat
      ∧ ks.length = max 1 s.cfg.retryCount.toNat
      ∧ ([.timedOut] : List AttemptFailure).length < max 1 s.cfg.retryCount.toNat :=
  ⟨rfl, rfl, rfl, rfl, rfl, rfl, by decide, mtu_pos, rfl, by decide, by decide, by decide, by decide⟩

/-! ### Witnesses: receiving -/

theorem witness_TReceiveResult :
    let idle (bs : List Byte) (last : Option Byte) (inq : List InFrame) : State := receiver (ringOf 4 bs) last inq
    ((idle [] none []).Inv ∧ (idle [] none []).appCmd = .none ∧ (idle [] none []).live = true
      ∧ (idle [] none []).rx.pendValid = false ∧ (idle [] none []).env.inq = [])
    ∧ ((idle [] none [⟨[3, 1, 0], 0, 0, 0⟩]).Inv ∧ parse [3, 1, 0] = none)
    ∧ ((idle [] (some 5) [frameF 5 [0x41]]).Inv ∧ (idle [] (some 5) [frameF 5 [0x41]]).rx.lastSeqValid = true
      ∧ parse (frameF 5 [0x41]).raw = some ⟨0x0001, 5, 0, 0, ⟨.none, []⟩, ⟨.none, []⟩, [0x41]⟩
      ∧ (5 : Byte) = (idle [] (some 5) [frameF 5 [0x41]]).rx.lastSeq)
    ∧ ((idle [1, 2, 3] (some 5) [frameF 7 [0x41]]).Inv
      ∧ parse (frameF 7 [0x41]).raw = some ⟨0x0001, 7, 0, 0, ⟨.none, []⟩, ⟨.none, []⟩, [0x41]⟩
      ∧ ([0x41] : List Byte).length ≤ (ringOf 4 [1, 2, 3]).cap - (ringOf 4 [1, 2, 3]).count)
    ∧ ((idle [1, 2, 3] (some 5) [frameF 7 [0x41, 0x42]]).Inv
      ∧ parse (frameF 7 [0x41, 0x42]).raw = some ⟨0x0001, 7, 0, 0, ⟨.none, []⟩, ⟨.none, []⟩, [0x41, 0x42]⟩
      ∧ (ringOf 4 [1, 2, 3]).cap - (ringOf 4 [1, 2, 3]).count < ([0x41, 0x42] : List Byte).length) :=
  ⟨⟨receiver_inv _ _ _ (by decide), rfl, rfl, rfl, rfl⟩, ⟨receiver_inv _ _ _ (by decide), rfl⟩,
    ⟨receiver_inv _ _ _ (by decide), rfl, by decide, rfl⟩, ⟨receiver_inv _ _ _ (by decide), by decide, by decide⟩,
    receiver_inv _ _ _ (by decide), by decide, by decide⟩

theorem witness_PendingFrameDrains :
    (noSession.Inv ∧ noSession.appCmd = .none ∧ noSession.live = false)
    ∧ ((pendingState [1, 2, 3]).Inv ∧ (pendingState [1, 2, 3]).appCmd = .none ∧ (pendingState [1, 2, 3]).live = true
      ∧ (pendingState [1, 2, 3]).rx.pendValid = true
      ∧ (pendingState [1, 2, 3]).rx.pendOff + (pendingState [1, 2, 3]).rx.pendFits
        = (pendingState [1, 2, 3]).rx.pendLen)
    ∧ ((pendingState [1, 2, 3, 4]).Inv ∧ (pendingState [1, 2, 3, 4]).appCmd = .none
      ∧ (pendingState [1, 2, 3, 4]).live = true ∧ (pendingState [1, 2, 3, 4]).rx.pendValid = true
      ∧ (pendingState [1, 2, 3, 4]).rx.pendOff + (pendingState [1, 2, 3, 4]).rx.pendFits
        < (pendingState [1, 2, 3, 4]).rx.pendLen) :=
  ⟨⟨noSession_inv, rfl, rfl⟩, ⟨pendingState_inv _ (by decide), rfl, rfl, rfl, by decide⟩,
    pendingState_inv _ (by decide), rfl, rfl, rfl, by decide⟩

theorem witness_SeqValidateResult :
    let f (w : Half) (q : Byte) : Frame := ⟨w, q, 0, 0, ⟨.none, []⟩, ⟨.none, []⟩, []⟩
    let s (last : Option Byte) (g : Frame) : State := (receiver (ringOf 4 []) last []).offerFrame g
    ((s none (f 0x0101 0)).latch.rxFrame = some (f 0x0101 0) ∧ (f 0x0101 0).fcf.getLsbD 8 = true)
    ∧ ((s none (f 1 5)).latch.rxFrame = some (f 1 5) ∧ (f 1 5).fcf.getLsbD 8 = false
      ∧ (s none (f 1 5)).rx.lastSeqValid = false)
    ∧ ((s (some 5) (f 1 5)).rx.lastSeqValid = true ∧ (f 1 5).seq = (s (some 5) (f 1 5)).rx.lastSeq)
    ∧ ((s (some 255) (f 1 0)).rx.lastSeqValid = true ∧ (f 1 0).seq = (s (some 255) (f 1 0)).rx.lastSeq + 1)
    ∧ ((s (some 5) (f 1 7)).rx.lastSeqValid = true ∧ (f 1 7).seq ≠ (s (some 5) (f 1 7)).rx.lastSeq
      ∧ (f 1 7).seq ≠ (s (some 5) (f 1 7)).rx.lastSeq + 1) := by decide

theorem witness_ReceiveKeepsEveryByte :
    ((receiver (ringOf 4 [1]) none []).Inv ∧ (receiver (ringOf 4 [1]) none []).live = true
      ∧ (receiver (ringOf 4 [1]) none []).appCmd = .none)
    ∧ ((reading false []).Inv ∧ (reading false []).live = true ∧ (reading false []).rd.active = true
      ∧ (reading false []).rd.expired = false)
    ∧ ((reading true []).Inv ∧ (reading true []).live = true ∧ (reading true []).rd.active = true
      ∧ (reading true []).rd.expired = true) :=
  ⟨⟨receiver_inv _ _ _ (by decide), rfl, rfl⟩, ⟨reading_inv _ _ (by decide), rfl, rfl, rfl⟩,
    reading_inv _ _ (by decide), rfl, rfl, rfl⟩

theorem witness_ReadStarts :
    (noSession.appCmd = .none ∧ noSession.live = false)
    ∧ ((receiver (ringOf 4 [1, 2]) none []).appCmd = .none ∧ (receiver (ringOf 4 [1, 2]) none []).live = true
      ∧ (2 : Half).toNat ≤ (receiver (ringOf 4 [1, 2]) none []).rx.rxb.count
      ∧ (receiver (ringOf 4 [1, 2]) none []).rx.rxb.count < (3 : Half).toNat) := by decide

theorem witness_RdStepResult :
    (reading false []).rd.active = true
    ∧ ((reading true []).rd.active = true ∧ (reading true []).rd.expired = true)
    ∧ (let s := reading false [frameF 8 [0x48, 0x49, 0x4A]]
      s.rd.expired = false ∧ s.rd.got + min (s.rd.want - s.rd.got) s.receiveStep.state.rx.rxb.count = s.rd.want)
    ∧ (let s := reading false [frameF 8 [0x48]]
      s.rd.expired = false ∧ s.rd.got + min (s.rd.want - s.rd.got) s.receiveStep.state.rx.rxb.count ≠ s.rd.want) := by
  decide

theorem witness_ReceiveQueriesAndQueue :
    (noSession.appCmd = .none ∧ noSession.live = false)
    ∧ ((sender 0x41 4).appCmd = .none ∧ (sender 0x41 4).live = true ∧ (sender 0x41 4).rx.metaValid = false)
    ∧ ({ (sender 0x41 4).rx with metaValid := true } : RxRegs).metaValid = true := by decide

/-! ### Witnesses: rules over all operations -/

theorem witness_DirectionsAreIndependent : receiveOp .tReceive = true ∧ transmitOp .tFlush = true := by decide

theorem witness_LeafCommandsIgnoreTheSession :
    leafOp (.rbRead 2) = true ∧ (noSession.appCmd = .none ∧ noSession.live = false)
    ∧ ((sender 0x41 4).appCmd = .none ∧ (sender 0x41 4).live = true) := by decide

theorem witness_ErrorsChangeNothing :
    Instr.tEnd.port = .command ∧ Instr.tEnd ≠ .tReceive
      ∧ ∃ t, exec .tEnd noSession = .next t ∧ t.io.cmdOut = noSession.io.cmdOut ++ [0x09 :: []] ∧ (0x09 : Byte) ≠ 0x00 :=
  ⟨rfl, by decide, _, rfl, rfl, by decide⟩

end Sys2Proof.Machine
end

/-! ## Proofs: the state (10_state.md)

The invariant `State.Inv` is taken apart into what it says of the transmit registers, the receive registers and
the read registers. Each register update is then shown to keep its own part, and each operation is assembled from
these. -/

/-! ### What an outcome leads to -/

namespace Sys2Proof.Machine

/-- Every state the outcome goes on with satisfies `P`; a fault and a refusal go on with none. -/
def Leads (o : Host.Outcome State Fault Refusal) (P : State → Prop) : Prop := ∀ t, o = .next t → P t

section Outcomes

variable {P : State → Prop} {s : State} {k l : Host.Outcome State Fault Refusal}

theorem leads_next (h : P s) : Leads (.next s) P := fun _ ht => Host.Outcome.next.inj ht ▸ h

theorem leads_refused (e : Refusal) : Leads (.refused e) P := fun _ ht => by cases ht

theorem leads_ite (c : Prop) [Decidable c] (hk : c → Leads k P) (hl : ¬ c → Leads l P) :
    Leads (if c then k else l) P := by
  split
  · exact hk ‹_›
  · exact hl ‹_›

theorem leads_whenFree (hbusy : s.appCmd ≠ .none → P s) (hk : s.appCmd = .none → Leads k P) :
    Leads (whenFree s k) P := fun t ht => by
  rcases whenFree_eq_next s t k ht with ⟨hb, rfl⟩ | ⟨hf, ht⟩
  · exact hbusy hb
  · exact hk hf t ht

theorem leads_whenLive (hbusy : s.appCmd ≠ .none → P s) (hdead : s.live = false → P (s.replied [0x09]))
    (hk : s.appCmd = .none → s.live = true → Leads k P) : Leads (whenLive s k) P := fun t ht => by
  rcases whenLive_eq_next s t k ht with ⟨hb, rfl⟩ | ⟨_, hl, rfl⟩ | ⟨hf, hl, ht⟩
  · exact hbusy hb
  · exact hdead hl
  · exact hk hf hl t ht

theorem leads_onUserRing (rb : Byte) (hbusy : s.appCmd ≠ .none → P s) (hillegal : P (s.replied [0x0A]))
    (hrefused : P (s.replied [0x09])) (hk : s.appCmd = .none → Leads k P) : Leads (onUserRing rb s k) P :=
  fun t ht => by
  rcases onUserRing_eq_next rb s t k ht with ⟨hb, rfl⟩ | ⟨_, rfl | rfl⟩ | ⟨hf, ht⟩
  · exact hbusy hb
  · exact hillegal
  · exact hrefused
  · exact hk hf t ht

theorem leads_whenEnabled (c : Bool) (hoff : c = false → P s) (hk : c = true → Leads k P) :
    Leads (whenEnabled c s k) P := fun t ht => by
  rcases whenEnabled_eq_next c s t k ht with ⟨hc, rfl⟩ | ⟨hc, ht⟩
  · exact hoff hc
  · exact hk hc t ht

end Outcomes

/-! ### The transmit registers -/

/-- What `State.Inv` says of the transmit registers, given `LIVE`, `APP_CMD` and `TX_CAP`. -/
structure TxRegs.Sound (live : Bool) (cmd : AppCmd) (cap : Nat) (r : TxRegs) : Prop where
  txb : r.txb.Wf
  frame : r.txFrame.wf = true ∧ r.txFrame.within Config.frameMax = true
  frameLen : r.txFrameLen ≤ Config.frameMax
  retries : r.retriesLeft ≤ 255
  ackTimer : r.ackTimerArmed = decide (r.arqState = .waiting)
  arqSends : r.arqState ≠ .idle → r.sendActive = true
  delaySends : r.delayArmed = true → r.sendActive = true ∧ r.arqState = .idle
  busy : r.sendActive = true ↔ cmd = .write ∨ cmd = .flush
  capacity : live = true → r.txb.cap = cap
  staged : r.txb.count < Config.mtu ∧ (1 ≤ r.txb.cap → r.txb.count < r.txb.cap)
  quiet : live = false → r.txb.cap = 0 ∧ r.outSeq = 0 ∧ r.txFrameLen = 0

section Transmit

variable {live : Bool} {cmd : AppCmd} {cap : Nat} {r : TxRegs}

/-- An empty buffer holds less than a frame's worth (R213). -/
theorem RingBuffer.staged_of_empty {rb : RingBuffer} (h : rb.count = 0) :
    rb.count < Config.mtu ∧ (1 ≤ rb.cap → rb.count < rb.cap) := by
  have := mtu_pos
  omega

theorem TxRegs.sound_fresh {c : Nat} {q : Byte} (hc : c ≤ Config.rbCapMax) (hlive : live = true → c = cap)
    (hdead : live = false → c = 0 ∧ q = 0) : (TxRegs.fresh c q).Sound live .none cap where
  txb := RingBuffer.resize_wf c hc
  frame := ⟨rfl, rfl⟩
  frameLen := Nat.zero_le _
  retries := Nat.zero_le _
  ackTimer := rfl
  arqSends h := absurd rfl h
  delaySends h := Bool.noConfusion h
  busy := by simp [TxRegs.fresh, TxRegs.reset]
  capacity := hlive
  staged := RingBuffer.staged_of_empty rfl
  quiet h := ⟨(hdead h).1, (hdead h).2, rfl⟩

/-- The retry delay runs only while the engine is idle (R232). -/
theorem TxRegs.Sound.no_delay (h : r.Sound live cmd cap) (ha : r.arqState ≠ .idle) : r.delayArmed = false := by
  by_contra hd
  exact ha (h.delaySends (by simpa using hd)).2

/-- A command that is no send takes the place of another that is none. -/
theorem TxRegs.Sound.of_cmd {cmd' : AppCmd} (h : r.Sound live cmd cap)
    (hc : (cmd = .write ∨ cmd = .flush) ↔ (cmd' = .write ∨ cmd' = .flush)) : r.Sound live cmd' cap :=
  { h with busy := h.busy.trans hc }

/-- `TX_CAP` is free to change while there is no session. -/
theorem TxRegs.Sound.of_dead {cap' : Nat} (h : r.Sound live cmd cap) (hl : live = false) :
    r.Sound live cmd cap' :=
  { h with capacity := fun ht => by simp [hl] at ht }

theorem TxRegs.Sound.stage (h : r.Sound live cmd cap) {rb : RingBuffer} (hw : rb.Wf) (hc : rb.cap = r.txb.cap)
    (hs : rb.count < Config.mtu ∧ (1 ≤ rb.cap → rb.count < rb.cap)) :
    TxRegs.Sound live cmd cap { r with txb := rb } :=
  { h with
    txb := hw
    capacity := fun hl => hc.trans (h.capacity hl)
    staged := hs
    quiet := fun hl => ⟨hc.trans (h.quiet hl).1, (h.quiet hl).2⟩ }

theorem TxRegs.Sound.load (h : r.Sound live cmd cap) (hl : live = true) {out : List Byte}
    (ho : out.length ≤ Config.frameMax) :
    TxRegs.Sound live cmd cap { r with txFrame := r.txFrame.writeBytes 0 out, txFrameLen := out.length } :=
  { h with
    frame := ⟨Memory.wf_writeBytes out _ 0 h.frame.1, Memory.within_writeBytes out _ 0 _ (by omega) h.frame.2⟩
    frameLen := ho
    quiet := fun hd => Bool.noConfusion (hl.symm.trans hd) }

theorem TxRegs.Sound.setSeq (h : r.Sound live cmd cap) (hl : live = true) (q : Byte) :
    TxRegs.Sound live cmd cap { r with outSeq := q } :=
  { h with quiet := fun hd => Bool.noConfusion (hl.symm.trans hd) }

/-- A confirmed send begins (R220). -/
theorem TxRegs.Sound.arm (h : r.Sound live cmd cap) {n : Nat} (hn : n ≤ 255) {c : AppCmd}
    (hc : c = .write ∨ c = .flush) :
    TxRegs.Sound live c cap { r with retriesLeft := n, sendActive := true } :=
  { h with
    retries := hn
    arqSends := fun _ => rfl
    delaySends := fun hd => ⟨rfl, (h.delaySends hd).2⟩
    busy := ⟨fun _ => hc, fun _ => rfl⟩ }

/-- The engine of an active send moves to state `a`, its acknowledgment timer with it (R223 to R227). -/
theorem TxRegs.Sound.setArq (h : r.Sound live cmd cap) (hs : r.sendActive = true) (hd : r.delayArmed = false)
    {a : ArqState} {armed : Bool} (ha : armed = decide (a = .waiting)) :
    TxRegs.Sound live cmd cap { r with arqState := a, ackTimerArmed := armed } :=
  { h with
    ackTimer := ha
    arqSends := fun _ => hs
    delaySends := fun hd' => Bool.noConfusion (hd'.symm.trans hd) }

/-- A retry is due after the delay (R229). -/
theorem TxRegs.Sound.retry (h : r.Sound live cmd cap) (hs : r.sendActive = true) (ha : r.ackTimerArmed = false)
    {n : Nat} (hn : n ≤ 255) :
    TxRegs.Sound live cmd cap { r with retriesLeft := n, arqState := .idle, delayArmed := true } :=
  { h with
    retries := hn
    ackTimer := ha
    arqSends := fun h => absurd rfl h
    delaySends := fun _ => ⟨hs, rfl⟩ }

/-- A send that is over leaves the engine at rest and the port free (R229). -/
theorem TxRegs.Sound.finish (h : r.Sound live cmd cap) (hd : r.delayArmed = false)
    (ha : r.ackTimerArmed = false) :
    TxRegs.Sound live .none cap { r with arqState := .idle, sendActive := false } :=
  { h with
    ackTimer := ha
    arqSends := fun h => absurd rfl h
    delaySends := fun hd' => Bool.noConfusion (hd'.symm.trans hd)
    busy := by simp }

theorem TxRegs.Sound.setRetries (h : r.Sound live cmd cap) {n : Nat} (hn : n ≤ 255) :
    TxRegs.Sound live cmd cap { r with retriesLeft := n } :=
  { h with retries := hn }

/-- The retry delay ends (R228). -/
theorem TxRegs.Sound.endDelay (h : r.Sound live cmd cap) :
    TxRegs.Sound live cmd cap { r with delayArmed := false } :=
  { h with delaySends := fun hd => Bool.noConfusion hd }

end Transmit

/-! ### The receive registers -/

/-- What `State.Inv` says of the receive registers, given `LIVE` and `RX_CAP`. -/
structure RxRegs.Sound (live : Bool) (cap : Nat) (r : RxRegs) : Prop where
  rxb : r.rxb.Wf
  pendBuf : r.pendBuf.wf = true ∧ r.pendBuf.within Config.pendMax = true
  pending : r.pendValid = true → r.pendOff < r.pendLen ∧ r.pendLen ≤ Config.pendMax
  capacity : live = true → r.rxb.cap = cap
  quiet : live = false → r.rxb.cap = 0 ∧ r.lastSeqValid = false ∧ r.pendValid = false ∧ r.metaValid = false

section Receive

variable {live : Bool} {cap : Nat} {r : RxRegs}

/-- Registers with nothing received: those of the "T_BEGIN" and "reset" columns (R41). -/
theorem RxRegs.sound_of_resized {c : Nat} (hrxb : r.rxb = .resize c) (hbuf : r.pendBuf = [])
    (hflags : r.lastSeqValid = false ∧ r.pendValid = false ∧ r.metaValid = false) (hc : c ≤ Config.rbCapMax)
    (hlive : live = true → c = cap) (hdead : live = false → c = 0) : r.Sound live cap where
  rxb := hrxb ▸ RingBuffer.resize_wf c hc
  pendBuf := hbuf ▸ ⟨rfl, rfl⟩
  pending h := Bool.noConfusion (h.symm.trans hflags.2.1)
  capacity := hrxb ▸ hlive
  quiet h := ⟨hrxb ▸ hdead h, hflags⟩

/-- `RX_CAP` is free to change while there is no session. -/
theorem RxRegs.Sound.of_dead {cap' : Nat} (h : r.Sound live cap) (hl : live = false) : r.Sound live cap' :=
  { h with capacity := fun ht => by simp [hl] at ht }

theorem RxRegs.Sound.setRxb (h : r.Sound live cap) (hl : live = true) {rb : RingBuffer} (hw : rb.Wf)
    (hc : rb.cap = r.rxb.cap) :
    RxRegs.Sound live cap { r with rxb := rb } :=
  { h with
    rxb := hw
    capacity := fun hl => hc.trans (h.capacity hl)
    quiet := fun hd => Bool.noConfusion (hl.symm.trans hd) }

theorem RxRegs.Sound.setMeta (h : r.Sound live cap) (hl : live = true) (rssi lqi channel : Byte) :
    RxRegs.Sound live cap { r with rssi := rssi, lqi := lqi, channel := channel, metaValid := true } :=
  { h with quiet := fun hd => Bool.noConfusion (hl.symm.trans hd) }

theorem RxRegs.Sound.seqRecord (h : r.Sound live cap) (hl : live = true) (f : Frame) :
    (seqRecord r f).Sound live cap := by
  unfold Machine.seqRecord
  split
  · exact h
  · exact { h with quiet := fun hd => Bool.noConfusion (hl.symm.trans hd) }

/-- A payload of 1 to 251 bytes is held (R258). -/
theorem RxRegs.Sound.hold (h : r.Sound live cap) (hl : live = true) {p : List Byte} (h0 : 0 < p.length)
    (hp : p.length ≤ Config.pendMax) :
    RxRegs.Sound live cap
      { r with pendBuf := r.pendBuf.writeBytes 0 p, pendLen := p.length, pendOff := 0, pendValid := true } :=
  { h with
    pendBuf := ⟨Memory.wf_writeBytes p _ 0 h.pendBuf.1, Memory.within_writeBytes p _ 0 _ (by omega) h.pendBuf.2⟩
    pending := fun _ => ⟨h0, hp⟩
    quiet := fun hd => Bool.noConfusion (hl.symm.trans hd) }

/-- The pending frame advances, and is pending no longer or has bytes left (R259). -/
theorem RxRegs.Sound.advance (h : r.Sound live cap) (hl : live = true) {off : Nat} {valid : Bool}
    (ho : valid = true → off < r.pendLen ∧ r.pendLen ≤ Config.pendMax) :
    RxRegs.Sound live cap { r with pendOff := off, pendValid := valid } :=
  { h with pending := ho, quiet := fun hd => Bool.noConfusion (hl.symm.trans hd) }

end Receive

/-! ### The read registers -/

/-- What `State.Inv` says of the read registers, given `APP_CMD`. -/
structure RdRegs.Sound (cmd : AppCmd) (r : RdRegs) : Prop where
  busy : r.active = true ↔ cmd = .read
  count : r.got = r.data.length
  short : r.active = true → r.got < r.want
  timer : r.active = true → r.timerArmed = !r.expired
  idle : r.active = false → r.timerArmed = false ∧ r.expired = false

section Read

variable {cmd : AppCmd} {r : RdRegs}

theorem RdRegs.sound_reset : RdRegs.reset.Sound .none where
  busy := by simp [RdRegs.reset]
  count := rfl
  short h := Bool.noConfusion h
  timer h := Bool.noConfusion h
  idle _ := ⟨rfl, rfl⟩

/-- A command that is no read takes the place of another that is none. -/
theorem RdRegs.Sound.of_cmd {cmd' : AppCmd} (h : r.Sound cmd) (hc : cmd = .read ↔ cmd' = .read) : r.Sound cmd' :=
  { h with busy := h.busy.trans hc }

/-- With the port free no read is in progress and its timer neither runs nor has fired. -/
theorem RdRegs.Sound.at_rest (h : r.Sound cmd) (hc : cmd = .none) :
    r.active = false ∧ r.timerArmed = false ∧ r.expired = false := by
  have ha : r.active = false := by
    have := h.busy
    simpa [hc] using this
  exact ⟨ha, h.idle ha⟩

/-- The read ends, with what it got (R266). -/
theorem RdRegs.Sound.finish {got : Nat} {data : List Byte} (hg : got = data.length) (want : Nat) :
    RdRegs.Sound .none ⟨false, want, got, data, false, false⟩ where
  busy := by simp
  count := hg
  short h := Bool.noConfusion h
  timer h := Bool.noConfusion h
  idle _ := ⟨rfl, rfl⟩

/-- A read that is short waits for its bytes (R265). -/
theorem RdRegs.Sound.wait {got want : Nat} {data : List Byte} (hg : got = data.length) (hs : got < want) :
    RdRegs.Sound .read ⟨true, want, got, data, true, false⟩ where
  busy := by simp
  count := hg
  short _ := hs
  timer _ := rfl
  idle h := Bool.noConfusion h

/-- A read in progress takes bytes and is still short (R266). -/
theorem RdRegs.Sound.take (h : r.Sound cmd) {got : Nat} {data : List Byte} (hg : got = data.length)
    (hs : got < r.want) : RdRegs.Sound cmd { r with data := data, got := got } :=
  { h with count := hg, short := fun _ => hs }

/-- The read timer fires (R267). -/
theorem RdRegs.Sound.expire (h : r.Sound cmd) (ht : r.timerArmed = true) :
    RdRegs.Sound cmd { r with expired := true, timerArmed := false } :=
  { h with
    timer := fun _ => rfl
    idle := fun ha => Bool.noConfusion (ht.symm.trans (h.idle ha).1) }

end Read

/-! ### The invariant by its parts -/

section Parts

variable {s : State}

theorem State.Inv.txSound (hi : s.Inv) : s.tx.Sound s.live s.appCmd s.cfg.txCap.toNat where
  txb := hi.txb
  frame := hi.txFrame
  frameLen := hi.txFrameLen
  retries := hi.retries
  ackTimer := hi.ackTimer
  arqSends := hi.arqSends
  delaySends := hi.delaySends
  busy := hi.sendBusy
  capacity hl := (hi.caps hl).1
  staged := hi.staged
  quiet hl := by
    obtain ⟨htxb, _, hseq, hlen, _⟩ := hi.quiet hl
    exact ⟨htxb, hseq, hlen⟩

theorem State.Inv.rxSound (hi : s.Inv) : s.rx.Sound s.live s.cfg.rxCap.toNat where
  rxb := hi.rxb
  pendBuf := hi.pendBuf
  pending := hi.pending
  capacity hl := (hi.caps hl).2
  quiet hl := by
    obtain ⟨_, hrxb, _, _, hlast, hpend, hmeta⟩ := hi.quiet hl
    exact ⟨hrxb, hlast, hpend, hmeta⟩

theorem State.Inv.rdSound (hi : s.Inv) : s.rd.Sound s.appCmd where
  busy := hi.readBusy
  count := hi.readCount
  short := hi.readShort
  timer := hi.readTimer
  idle := hi.readIdle

/-- The invariant is its parts. -/
theorem State.inv_of_sound (htx : s.tx.Sound s.live s.appCmd s.cfg.txCap.toNat)
    (hrx : s.rx.Sound s.live s.cfg.rxCap.toNat) (hrd : s.rd.Sound s.appCmd) (hub : s.ub.Wf)
    (hlatch : s.latch = .clear) (hmodes : s.cfg.localAddrMode ≠ 1 ∧ s.cfg.destAddrMode ≠ 1)
    (hlive : s.appCmd ≠ .none → s.live = true) : s.Inv where
  ub := hub
  txb := htx.txb
  rxb := hrx.rxb
  pendBuf := hrx.pendBuf
  txFrame := htx.frame
  txFrameLen := htx.frameLen
  pending := hrx.pending
  retries := htx.retries
  ackTimer := htx.ackTimer
  arqSends := htx.arqSends
  delaySends := htx.delaySends
  sendBusy := htx.busy
  readBusy := hrd.busy
  busyLive := hlive
  readCount := hrd.count
  readShort := hrd.short
  readTimer := hrd.timer
  readIdle := hrd.idle
  latch := hlatch
  modes := hmodes
  caps hl := ⟨htx.capacity hl, hrx.capacity hl⟩
  staged := htx.staged
  quiet hl := by
    obtain ⟨htxb, hseq, hlen⟩ := htx.quiet hl
    obtain ⟨hrxb, hlast, hpend, hmeta⟩ := hrx.quiet hl
    exact ⟨htxb, hrxb, hseq, hlen, hlast, hpend, hmeta⟩

/-- The environment, the ports and the number of the next free value are no part of the invariant. -/
theorem State.Inv.outside (hi : s.Inv) (env : Env) (io : Ports) (free : Nat) :
    State.Inv { s with env := env, io := io, free := free } :=
  State.inv_of_sound hi.txSound hi.rxSound hi.rdSound hi.ub hi.latch hi.modes hi.busyLive

/-- The transmit registers may be replaced by sound ones. -/
theorem State.Inv.withTx (hi : s.Inv) {tx : TxRegs} (htx : tx.Sound s.live s.appCmd s.cfg.txCap.toNat)
    (env : Env) (io : Ports) : State.Inv { s with tx := tx, env := env, io := io } :=
  State.inv_of_sound htx hi.rxSound hi.rdSound hi.ub hi.latch hi.modes hi.busyLive

theorem State.Inv.respond (hi : s.Inv) (st : Status) (bytes : List Byte) : (s.respond st bytes).Inv :=
  s.inv_withIo _ hi

theorem State.Inv.replied (hi : s.Inv) (bytes : List Byte) : (s.replied bytes).Inv := s.inv_withIo _ hi

/-- UB may be replaced by a well-formed buffer. -/
theorem State.Inv.withUb (hi : s.Inv) {ub : RingBuffer} (hub : ub.Wf) : (s.setUb ub).Inv :=
  State.inv_of_sound hi.txSound hi.rxSound hi.rdSound hub hi.latch hi.modes hi.busyLive

/-! ### Answers and gates keep the invariant -/

variable {k : Host.Outcome State Fault Refusal}

theorem inv_answer (hi : s.Inv) (bytes : List Byte) : Leads (answer s bytes) State.Inv :=
  leads_next (hi.respond _ _)

theorem inv_raise (hi : s.Inv) (e : Status) : Leads (raise s e) State.Inv := leads_next (hi.respond _ _)

theorem inv_whenFree (hi : s.Inv) (hk : s.appCmd = .none → Leads k State.Inv) :
    Leads (whenFree s k) State.Inv := leads_whenFree (fun _ => hi) hk

theorem inv_whenLive (hi : s.Inv) (hk : s.appCmd = .none → s.live = true → Leads k State.Inv) :
    Leads (whenLive s k) State.Inv := leads_whenLive (fun _ => hi) (fun _ => hi.replied _) hk

theorem inv_onUserRing (hi : s.Inv) (rb : Byte) (hk : Leads k State.Inv) :
    Leads (onUserRing rb s k) State.Inv :=
  leads_onUserRing rb (fun _ => hi) (hi.replied _) (hi.replied _) fun _ => hk

/-- A query of UB (R188 to R192). -/
theorem inv_ringQuery (hi : s.Inv) (rb : Byte) (bytes : List Byte) :
    Leads (onUserRing rb s (answer s bytes)) State.Inv := inv_onUserRing hi rb (inv_answer hi bytes)

/-- A command that replaces UB by a well-formed buffer (R182 to R187). -/
theorem inv_ringUpdate (hi : s.Inv) (rb : Byte) {ub : RingBuffer} (hub : ub.Wf) (bytes : List Byte) :
    Leads (onUserRing rb s (answer (s.setUb ub) bytes)) State.Inv :=
  inv_onUserRing hi rb (inv_answer (hi.withUb hub) bytes)

end Parts

/-! ### Configuration and session -/

section Session

variable {s : State}

theorem CfgRegs.write_localAddrMode (c : CfgRegs) (idx : Nat) (val : Word64) :
    (c.write idx val).localAddrMode = if idx = 1 then val.setWidth 2 else c.localAddrMode := by
  unfold CfgRegs.write
  split <;> simp_all

theorem CfgRegs.write_destAddrMode (c : CfgRegs) (idx : Nat) (val : Word64) :
    (c.write idx val).destAddrMode = if idx = 3 then val.setWidth 2 else c.destAddrMode := by
  unfold CfgRegs.write
  split <;> simp_all

/-- What `CFG_WRITE` accepts for a mode register is no Reserved mode (R210). -/
theorem cfgMode_ne_reserved {idx : Nat} {val : Word64} (hm : idx = 1 ∨ idx = 3)
    (h : cfgRefused idx val = false) : val.setWidth 2 ≠ 1 := by
  have hw : cfgWidth idx = 2 := by rcases hm with rfl | rfl <;> rfl
  simp only [cfgRefused, hw, Bool.or_eq_false_iff, Bool.and_eq_false_iff, decide_eq_false_iff_not] at h
  obtain ⟨⟨_, hlt⟩, hne⟩ := h
  have hne : val ≠ 1 := hne.resolve_left (not_not_intro hm)
  bv_omega

theorem CfgRegs.write_modes (c : CfgRegs) {idx : Nat} {val : Word64}
    (hc : c.localAddrMode ≠ 1 ∧ c.destAddrMode ≠ 1) (h : cfgRefused idx val = false) :
    (c.write idx val).localAddrMode ≠ 1 ∧ (c.write idx val).destAddrMode ≠ 1 := by
  rw [CfgRegs.write_localAddrMode, CfgRegs.write_destAddrMode]
  constructor
  · split
    · exact cfgMode_ne_reserved (.inl ‹_›) h
    · exact hc.1
  · split
    · exact cfgMode_ne_reserved (.inr ‹_›) h
    · exact hc.2

theorem legalMode_ne_reserved (v : BitVec 2) : legalMode v ≠ 1 := by
  unfold legalMode
  split
  · decide
  · assumption

/-- A session of the configured capacities, or none of capacity 0, is started from any state with a sound
configuration (R211, R212). -/
theorem State.inv_setSession {live : Bool} {c d : Nat} {q : Byte} (hub : s.ub.Wf)
    (hmodes : s.cfg.localAddrMode ≠ 1 ∧ s.cfg.destAddrMode ≠ 1)
    (hc : c ≤ Config.rbCapMax) (hd : d ≤ Config.rbCapMax)
    (hlive : live = true → c = s.cfg.txCap.toNat ∧ d = s.cfg.rxCap.toNat)
    (hdead : live = false → c = 0 ∧ d = 0 ∧ q = 0) : (s.setSession live c d q).Inv :=
  State.inv_of_sound
    (TxRegs.sound_fresh hc (fun h => (hlive h).1) fun h => ⟨(hdead h).1, (hdead h).2.2⟩)
    (RxRegs.sound_of_resized rfl rfl ⟨rfl, rfl, rfl⟩ hd (fun h => (hlive h).2) fun h => (hdead h).2.1)
    RdRegs.sound_reset hub rfl hmodes fun h => absurd rfl h

/-- The reset input establishes the invariant from any state (R320). -/
theorem State.inv_hardReset (s : State) : s.hardReset.Inv :=
  State.inv_setSession (s := { s with cfg := .free s.free, ub := .empty }) RingBuffer.empty_wf
    ⟨legalMode_ne_reserved _, legalMode_ne_reserved _⟩ (Nat.zero_le _) (Nat.zero_le _)
    (fun h => Bool.noConfusion h) fun _ => ⟨rfl, rfl, rfl⟩

theorem execCfgWrite_keeps_inv (hi : s.Inv) (idx : Byte) (val : Word64) :
    Leads (execCfgWrite idx val s) State.Inv :=
  inv_whenFree hi fun _ =>
    leads_ite _ (fun _ => inv_raise hi _) fun hl =>
    leads_ite _ (fun _ => inv_raise hi _) fun hr => by
      have hl : s.live = false := by simpa using hl
      have hmodes := s.cfg.write_modes hi.modes (idx := idx.toNat) (val := val) (by simpa using hr)
      have hs : State.Inv { s with cfg := s.cfg.write idx.toNat val } :=
        State.inv_of_sound (hi.txSound.of_dead hl) (hi.rxSound.of_dead hl) hi.rdSound hi.ub hi.latch hmodes hi.busyLive
      exact inv_answer hs _

theorem execTBegin_keeps_inv (hi : s.Inv) : Leads (execTBegin s) State.Inv :=
  inv_whenFree hi fun _ => leads_ite _ (fun _ => inv_raise hi _) fun _ => by
    have htx := s.cfg.txCap.isLt
    have hrx := s.cfg.rxCap.isLt
    have hmax : Config.rbCapMax = 65535 := rfl
    exact inv_answer (State.inv_setSession hi.ub hi.modes (by omega) (by omega) (fun _ => ⟨rfl, rfl⟩)
      fun h => Bool.noConfusion h) _

theorem execTEnd_keeps_inv (hi : s.Inv) : Leads (execTEnd s) State.Inv :=
  inv_whenLive hi fun _ _ => inv_answer (State.inv_setSession hi.ub hi.modes (Nat.zero_le _) (Nat.zero_le _)
    (fun h => Bool.noConfusion h) fun _ => ⟨rfl, rfl, rfl⟩) _

end Session

/-! ### Sending -/

section Sends

variable {s : State}

/-- The buffer `DRAIN` leaves behind. -/
theorem RingBuffer.without_wf {rb : RingBuffer} (hw : rb.Wf) {k : Nat} (hk : k ≤ rb.count) : (rb.without k).Wf := by
  have e : rb.without k = rb.consume k := by
    rw [RingBuffer.consume_eq_without, Nat.min_eq_left hk]
  exact e ▸ rb.consume_wf k hw

/-- Draining at most a frame's worth and loading its frame leaves `TXB` empty and `TXFRAME` in bounds (R216,
R217). -/
theorem State.framed_sound {rb : RingBuffer} {cmd : AppCmd} {cap : Nat} (htx : s.tx.Sound s.live cmd cap)
    (hlive : s.live = true) (hw : rb.Wf) (hcap : rb.cap = s.tx.txb.cap) (hcount : rb.count ≤ Config.mtu) :
    ((s.setTxb rb).framed (rb.content.take (min rb.count Config.mtu))).tx.Sound s.live cmd cap := by
  have hout : (wireBytes ((s.setTxb rb).txFrameOf (rb.content.take (min rb.count Config.mtu)))).length
      ≤ Config.frameMax := by
    rw [State.length_txWire]
    refine State.fits_of_mtu _ _ ?_
    rw [List.length_take]
    omega
  have hempty : (rb.without (min rb.count Config.mtu)).count = 0 := by
    show rb.count - min rb.count Config.mtu = 0
    omega
  exact (htx.stage (RingBuffer.without_wf hw (Nat.min_le_left _ _)) hcap
    (RingBuffer.staged_of_empty hempty)).load hlive hout

/-- An unconfirmed send keeps the transmit registers sound, whatever the radio answers (R219). -/
theorem State.sendOnce_sound {cmd : AppCmd} {cap : Nat} (htx : s.tx.Sound s.live cmd cap)
    (hlive : s.live = true) : s.sendOnce.tx.Sound s.live cmd cap := by
  unfold State.sendOnce
  split
  · exact htx.setSeq hlive _
  · exact htx

/-- It writes nothing else of the block. -/
theorem State.sendOnce_frame (s : State) :
    s.sendOnce = { s with tx := s.sendOnce.tx, env := s.sendOnce.env, io := s.sendOnce.io } := by
  unfold State.sendOnce
  split <;> rfl

/-- A drain and its send keep the invariant, with `TXB` any buffer of its capacity that holds at most a frame's
worth. -/
theorem drainAndSend_keeps_inv (hi : s.Inv) (hfree : s.appCmd = .none) (hlive : s.live = true) {rb : RingBuffer}
    (hw : rb.Wf) (hcap : rb.cap = s.tx.txb.cap) (hcount : rb.count ≤ Config.mtu) {c : AppCmd}
    (hc : c = .write ∨ c = .flush) (results : List Byte) :
    Leads ((s.setTxb rb).drainAndSend c results) State.Inv := by
  have hframed := State.framed_sound hi.txSound hlive hw hcap hcount
  have hlatch : { s.latch with drainReq := false, chunk := none } = Latches.clear := by rw [hi.latch]; rfl
  by_cases hack : (s.setTxb rb).ackRequested = true
  · rw [State.drainAndSend_confirmed _ c results hack]
    have hretry : s.cfg.retryCount.toNat ≤ 255 := by have := s.cfg.retryCount.isLt; omega
    have hrd : s.rd.Sound c := hi.rdSound.of_cmd (by rcases hc with rfl | rfl <;> simp [hfree])
    exact leads_next (State.inv_of_sound (hframed.arm hretry hc) hi.rxSound hrd hi.ub hlatch hi.modes fun _ => hlive)
  · rw [State.drainAndSend_unconfirmed _ c results (by simpa using hack)]
    have hsent := State.sendOnce_sound (s := (s.setTxb rb).framed _) hframed hlive
    rw [State.sendOnce_frame]
    exact leads_next (State.inv_of_sound hsent hi.rxSound hi.rdSound hi.ub hlatch hi.modes hi.busyLive)

/-- The byte written fills `TXB` to at most a frame's worth, and what is not drained is less than that (R213,
R214). -/
theorem execTWrite_keeps_inv (hi : s.Inv) (b : Byte) : Leads (execTWrite b s) State.Inv :=
  inv_whenLive hi fun hfree hlive => leads_ite _ (fun _ => inv_answer hi _) fun hroom => by
    have hroom : s.tx.txb.count ≠ s.tx.txb.cap := by simpa [RingBuffer.isFull_iff] using hroom
    have hw := s.tx.txb.write_wf b hi.txb
    have hcap := s.tx.txb.write_cap b
    have hcount : (s.tx.txb.write b).count = s.tx.txb.count + 1 := by rw [RingBuffer.write_of_room _ b hroom]
    have hstaged := hi.staged.1
    have hle := hw.count
    refine leads_ite _ (fun _ => drainAndSend_keeps_inv hi hfree hlive hw hcap (by omega) (.inl rfl) _) fun hdue => ?_
    simp only [State.drainDue, Bool.or_eq_true, RingBuffer.isFull_iff, decide_eq_true_eq, not_or, Nat.not_le] at hdue
    obtain ⟨hfull, hmtu⟩ : (s.tx.txb.write b).count ≠ (s.tx.txb.write b).cap
      ∧ (s.tx.txb.write b).count < Config.mtu := hdue
    exact inv_answer (hi.withTx (hi.txSound.stage hw hcap ⟨hmtu, fun _ => by omega⟩) s.env s.io) _

theorem execTFlush_keeps_inv (hi : s.Inv) : Leads (execTFlush s) State.Inv :=
  inv_whenLive hi fun hfree hlive => leads_ite _ (fun _ => inv_answer hi _) fun _ =>
    drainAndSend_keeps_inv hi hfree hlive hi.txb rfl (Nat.le_of_lt hi.staged.1) (.inr rfl) _

end Sends

/-! ### The stop-and-wait engine -/

section Arq

variable {s : State}

/-- A report that the block waits for ends the wait (R224, R225, R227). -/
theorem State.endWait_keeps_inv (hi : s.Inv) (hw : s.tx.arqState = .waiting) {a : ArqState} (ha : a ≠ .waiting) :
    (s.endWait a).Inv :=
  hi.withTx (hi.txSound.setArq (hi.arqSends (by simp [hw])) (hi.txSound.no_delay (by simp [hw])) (by simp [ha]))
    s.env s.io

theorem State.reportAttempt_keeps_inv (hi : s.Inv) : s.reportAttempt.Inv := hi.outside _ _ _

theorem State.diag_keeps_inv (hi : s.Inv) (code : Status) (info : List Nat) : (s.diag code info).Inv :=
  s.inv_withIo _ hi

theorem State.waiting_of_awaitsReport (h : s.awaitsReport = true) : s.tx.arqState = .waiting := by
  simp only [State.awaitsReport, Bool.and_eq_true, decide_eq_true_eq] at h
  exact h.2

theorem execEvTxDone_keeps_inv (hi : s.Inv) : Leads (execEvTxDone s) State.Inv := by
  refine leads_next ?_
  have hr := State.reportAttempt_keeps_inv hi
  split
  · exact State.endWait_keeps_inv hr (State.waiting_of_awaitsReport ‹_›) (by decide)
  · exact hr

theorem execEvTxFailed_keeps_inv (hi : s.Inv) (e : Word32) : Leads (execEvTxFailed e s) State.Inv := by
  refine leads_next ?_
  have hr := State.reportAttempt_keeps_inv hi
  split
  · exact State.diag_keeps_inv
      (State.endWait_keeps_inv hr (State.waiting_of_awaitsReport ‹_›) (by decide)) _ _
  · exact hr

theorem execEvAckTimeout_keeps_inv (hi : s.Inv) : Leads (execEvAckTimeout s) State.Inv :=
  leads_whenEnabled _ (fun _ => hi) fun harmed => by
    have hw : s.tx.arqState = .waiting := by simpa using hi.ackTimer.symm.trans harmed
    exact leads_next (State.diag_keeps_inv (State.endWait_keeps_inv hi hw (by decide)) _ _)

theorem execEvRetryDelayDone_keeps_inv (hi : s.Inv) : Leads (execEvRetryDelayDone s) State.Inv :=
  leads_whenEnabled _ (fun _ => hi) fun _ => leads_next (hi.withTx hi.txSound.endDelay s.env s.io)

/-- One attempt: the engine waits, or has failed already (R223). -/
theorem execArqIssue_keeps_inv (hi : s.Inv) : Leads (execArqIssue s) State.Inv :=
  leads_whenEnabled _ (fun _ => hi) fun hen => by
    simp only [State.arqIssueEnabled, Bool.and_eq_true, decide_eq_true_eq, Bool.not_eq_true'] at hen
    obtain ⟨⟨⟨_, hs⟩, hidle⟩, hd⟩ := hen
    have hack : s.tx.ackTimerArmed = false := by simp [hi.ackTimer, hidle]
    refine leads_next ?_
    split
    · exact hi.withTx (hi.txSound.setArq (a := .waiting) hs hd rfl) _ _
    · exact hi.withTx (hi.txSound.setArq (a := .failed) hs hd hack) _ _

/-- The response to a send that is over frees the port; nothing else of the block changes (R229). -/
theorem State.completeSend_eq (s : State) : s.completeSend = { s with appCmd := .none, io := s.completeSend.io } := by
  unfold State.completeSend
  split <;> rfl

/-- A send that is over: the engine rests and the port is free, whatever `OUT_SEQ` and `RETRIES_LEFT` have become
(R229, R231). -/
theorem State.completeSend_keeps_inv (hi : s.Inv) (hlive : s.live = true) (hsend : s.tx.sendActive = true)
    (hidle : s.tx.arqState ≠ .idle) (hwait : s.tx.arqState ≠ .waiting) {n : Nat} (hn : n ≤ 255) (q : Byte)
    (io : Ports) :
    (State.completeSend { s with
      tx := { s.tx with outSeq := q, retriesLeft := n, arqState := .idle, sendActive := false }
      io := io }).Inv := by
  have hack : s.tx.ackTimerArmed = false := by simp [hi.ackTimer, hwait]
  have hdone := ((hi.txSound.setSeq hlive q).setRetries hn).finish (hi.txSound.no_delay hidle) hack
  have hcmd : s.appCmd ≠ .read := by rcases hi.sendBusy.1 hsend with h | h <;> simp [h]
  have hrd : s.rd.Sound .none := hi.rdSound.of_cmd (by simp [hcmd])
  rw [State.completeSend_eq]
  exact State.inv_of_sound hdone hi.rxSound hrd hi.ub hi.latch hi.modes fun h => absurd rfl h

theorem execArqDecide_keeps_inv (hi : s.Inv) : Leads (execArqDecide s) State.Inv :=
  leads_whenEnabled _ (fun _ => hi) fun hen => by
    simp only [State.arqDecideEnabled, Bool.and_eq_true, Bool.or_eq_true, decide_eq_true_eq] at hen
    obtain ⟨hs, harq⟩ := hen
    have hidle : s.tx.arqState ≠ .idle := by rcases harq with h | h <;> simp [h]
    have hwait : s.tx.arqState ≠ .waiting := by rcases harq with h | h <;> simp [h]
    have hlive : s.live = true := hi.busyLive (by rcases hi.sendBusy.1 hs with h | h <;> simp [h])
    have hn : s.tx.retriesLeft - 1 ≤ 255 := Nat.le_trans (Nat.sub_le _ _) hi.retries
    refine leads_next ?_
    split
    · exact State.completeSend_keeps_inv hi hlive hs hidle hwait hi.retries _ _
    · unfold State.failAttempt
      split
      · exact State.completeSend_keeps_inv hi hlive hs hidle hwait hn _ _
      · exact hi.withTx (hi.txSound.retry hs (by simp [hi.ackTimer, hwait]) hn) _ _

end Arq

/-! ### Receiving -/

/-- What the receive step needs and keeps: a session, clear latches and sound registers. -/
structure State.Receiving (s : State) : Prop where
  live : s.live = true
  latch : s.latch = .clear
  rx : s.rx.Sound s.live s.cfg.rxCap.toNat

section ReceiveStep

variable {s : State}

/-- A payload of a frame that parses fits in `PEND_BUF` (R31, R154). -/
theorem parse_payload_le {raw : List Byte} {f : Frame} (h : parse raw = some f) :
    f.payload.length ≤ Config.pendMax := by
  obtain ⟨len, _, _, _, _, htotal⟩ := parse_eq_some raw f h
  have hlen := len.isLt
  have hhdr := hdrLen_ge f.fcf
  have hmax : Config.pendMax = 251 := rfl
  unfold frameTotal at htotal
  omega

theorem State.Receiving.deliver (h : s.Receiving) {p : List Byte} (hp : p.length ≤ Config.pendMax) :
    (s.deliver p).state.Receiving := by
  by_cases hfit : p.length ≤ s.rx.rxb.cap - s.rx.rxb.count
  · rw [s.deliver_of_fits p hfit]
    exact ⟨h.live, h.latch, h.rx.setRxb h.live (s.rx.rxb.writeArray_wf p h.rx.rxb) rfl⟩
  · rw [s.deliver_of_full p (by omega)]
    exact ⟨h.live, h.latch, h.rx.hold h.live (by omega) hp⟩

theorem State.Receiving.acceptFrame (h : s.Receiving) {f : Frame} (hp : f.payload.length ≤ Config.pendMax) :
    (s.acceptFrame f).state.Receiving := by
  by_cases hd : seqVerdict s.rx f = .duplicate
  · rw [s.acceptFrame_of_duplicate f hd, s.seqDone_of_clear h.latch]
    exact ⟨h.live, h.latch, h.rx⟩
  · rw [s.acceptFrame_of_accept f hd, s.seqDone_of_clear h.latch]
    have hrec : (State.noted { s with rx := seqRecord s.rx f } (seqDiags s.rx f)).Receiving :=
      ⟨h.live, h.latch, h.rx.seqRecord h.live f⟩
    exact hrec.deliver hp

theorem State.Receiving.handleFrame (h : s.Receiving) (fr : InFrame) :
    (s.handleFrame fr).state.Receiving := by
  cases hf : parse fr.raw with
  | none =>
    rw [s.handleFrame_of_malformed fr hf]
    exact ⟨h.live, h.latch, h.rx⟩
  | some f =>
    rw [s.handleFrame_of_parsed fr f hf]
    have hmeta : (s.latchMeta fr).Receiving := ⟨h.live, h.latch, h.rx.setMeta h.live _ _ _⟩
    exact hmeta.acceptFrame (parse_payload_le hf)

/-- Draining what is pending never passes its end (R259). -/
theorem State.Receiving.drainPending (h : s.Receiving) (hv : s.rx.pendValid = true) :
    s.drainPending.state.Receiving := by
  obtain ⟨hoff, hlen⟩ := h.rx.pending hv
  have hfits : s.rx.pendFits ≤ s.rx.pendLen - s.rx.pendOff := Nat.min_le_right _ _
  have hrxb := h.rx.setRxb h.live (s.rx.rxb.writeArray_wf (s.rx.pendBytes s.rx.pendFits) h.rx.rxb) rfl
  rw [State.drainPending_eq]
  split
  · exact ⟨h.live, h.latch, hrxb.advance h.live fun hf => Bool.noConfusion hf⟩
  · exact ⟨h.live, h.latch, hrxb.advance h.live fun _ => ⟨by show _ < s.rx.pendLen; omega, hlen⟩⟩

theorem State.Receiving.receiveStep (h : s.Receiving) : s.receiveStep.state.Receiving := by
  by_cases hv : s.rx.pendValid = true
  · rw [s.receiveStep_of_pending hv]
    exact h.drainPending hv
  · have hv : s.rx.pendValid = false := by simpa using hv
    cases hq : s.env.inq with
    | nil =>
      rw [s.receiveStep_of_empty hv hq]
      exact ⟨h.live, h.latch, h.rx⟩
    | cons fr rest =>
      rw [s.receiveStep_of_frame fr rest hv hq]
      have hpull : s.pullFrame.Receiving := ⟨h.live, h.latch, h.rx⟩
      exact hpull.handleFrame fr

/-- The receive step of a session keeps the invariant: it writes only what it works on (R73, R251). -/
theorem State.receiveStep_keeps_inv (hi : s.Inv) (hlive : s.live = true) : s.receiveStep.state.Inv := by
  have hrec := State.Receiving.receiveStep ⟨hlive, hi.latch, hi.rxSound⟩
  rw [State.receiveStep_frame] at hrec ⊢
  exact State.inv_of_sound hi.txSound hrec.rx hi.rdSound hi.ub hrec.latch hi.modes hi.busyLive

theorem execTReceive_keeps_inv (hi : s.Inv) : Leads (execTReceive s) State.Inv :=
  inv_whenLive hi fun _ hlive => leads_next ((State.receiveStep_keeps_inv hi hlive).respond _ _)

end ReceiveStep

/-! ### Reading -/

section Reads

variable {s : State}

/-- `RXB` after a read of a session is sound. -/
theorem State.consume_rxb_sound (hi : s.Inv) (hlive : s.live = true) (n : Nat) :
    RxRegs.Sound s.live s.cfg.rxCap.toNat { s.rx with rxb := s.rx.rxb.consume n } :=
  hi.rxSound.setRxb hlive (s.rx.rxb.consume_wf n hi.rxb) rfl

/-- The first step of a read completes it, or leaves it short and waiting (R265). -/
theorem State.startRead_keeps_inv (hi : s.Inv) (hfree : s.appCmd = .none) (hlive : s.live = true) (n : Nat)
    (timeout : Word32) : (s.startRead n timeout).Inv := by
  obtain ⟨hactive, htimer, _⟩ := hi.rdSound.at_rest hfree
  have hrx := State.consume_rxb_sound hi hlive n
  have hgot : s.rx.rxb.holds n = (s.rx.rxb.front n).length := (s.rx.rxb.length_front n).symm
  have hle := s.rx.rxb.holds_le n
  unfold State.startRead
  split
  · have hrd : (s.beginRead n).rd = ⟨false, n, s.rx.rxb.holds n, s.rx.rxb.front n, false, false⟩ := by
      simp [hactive, htimer]
    have hdone : (s.beginRead n).rd.Sound s.appCmd := by
      rw [hrd, hfree]
      exact RdRegs.Sound.finish hgot n
    have hbegun : (s.beginRead n).Inv :=
      State.inv_of_sound hi.txSound hrx hdone hi.ub hi.latch hi.modes hi.busyLive
    exact hbegun.respond _ _
  · have hne : s.rx.rxb.holds n ≠ n := ‹_›
    have hshort : s.rx.rxb.holds n < n := by omega
    exact State.inv_of_sound (hi.txSound.of_cmd (by simp [hfree])) hrx (RdRegs.Sound.wait hgot hshort) hi.ub hi.latch
      hi.modes fun _ => hlive

theorem execTRead_keeps_inv (hi : s.Inv) : Leads (execTRead s) State.Inv :=
  inv_whenLive hi fun hfree hlive => leads_next (State.startRead_keeps_inv hi hfree hlive 1 _)

theorem execTReadBytes_keeps_inv (hi : s.Inv) (n : Half) (timeout : Word32) :
    Leads (execTReadBytes n timeout s) State.Inv :=
  inv_whenLive hi fun hfree hlive => leads_next (State.startRead_keeps_inv hi hfree hlive _ _)

/-- Only a read in progress has its timer armed, so the timer marks no other (R267). -/
theorem execEvReadTimeout_keeps_inv (hi : s.Inv) : Leads (execEvReadTimeout s) State.Inv :=
  leads_whenEnabled _ (fun _ => hi) fun harmed => leads_next
    (State.inv_of_sound hi.txSound hi.rxSound (hi.rdSound.expire harmed) hi.ub hi.latch hi.modes hi.busyLive)

/-- The end of a read frees the port (R266). The read registers `rd` need not be those of a read that is short: the
last turn of the loop has just filled them. -/
theorem State.finishRead_keeps_inv (hi : s.Inv) (hread : s.appCmd = .read) {rx : RxRegs}
    (hrx : rx.Sound s.live s.cfg.rxCap.toNat) {rd : RdRegs} (hgot : rd.got = rd.data.length) :
    (State.finishRead { s with rx := rx, rd := rd }).Inv :=
  State.inv_of_sound (hi.txSound.of_cmd (by simp [hread])) hrx (RdRegs.Sound.finish hgot rd.want) hi.ub hi.latch
    hi.modes fun h => absurd rfl h

/-- `RD_GOT` counts what a turn of the read loop has collected (R33, R266). -/
theorem State.collect_count (hi : s.Inv) : s.collect.rd.got = s.collect.rd.data.length := by
  rw [State.collect_rd, List.length_append, RingBuffer.length_front, hi.readCount]

/-- Collecting bytes keeps the invariant of a read that is still short (R266). -/
theorem State.collect_keeps_inv (hi : s.Inv) (hactive : s.rd.active = true) (hlive : s.live = true)
    (hshort : s.collect.rd.got ≠ s.collect.rd.want) : s.collect.Inv := by
  have hle := s.rx.rxb.holds_le (s.rd.want - s.rd.got)
  have hlt := hi.readShort hactive
  have hne : s.rd.got + s.rx.rxb.holds (s.rd.want - s.rd.got) ≠ s.rd.want := hshort
  exact State.inv_of_sound hi.txSound (State.consume_rxb_sound hi hlive _)
    (hi.rdSound.take (State.collect_count hi) (by omega)) hi.ub hi.latch hi.modes hi.busyLive

theorem execRdStep_keeps_inv (hi : s.Inv) : Leads (execRdStep s) State.Inv :=
  leads_whenEnabled _ (fun _ => hi) fun hactive => by
    have hread : s.appCmd = .read := hi.readBusy.1 hactive
    have hlive : s.live = true := hi.busyLive (by simp [hread])
    have hrecv := State.receiveStep_keeps_inv hi hlive
    have hframe : s.receiveStep.state.rd = s.rd ∧ s.receiveStep.state.appCmd = s.appCmd
        ∧ s.receiveStep.state.live = s.live := by
      rw [State.receiveStep_frame]
      exact ⟨rfl, rfl, rfl⟩
    obtain ⟨hrd, hcmd, hl⟩ := hframe
    refine leads_next ?_
    split
    · exact State.finishRead_keeps_inv hi hread hi.rxSound hi.readCount
    · split
      · exact State.finishRead_keeps_inv hrecv (hcmd.trans hread)
          (State.consume_rxb_sound hrecv (hl.trans hlive) _) (State.collect_count hrecv)
      · exact State.collect_keeps_inv hrecv (hrd ▸ hactive) (hl.trans hlive) ‹_›

end Reads

/-! ### Every operation and every step -/

section Steps

variable {s : State}

/-- No internal operation of a send runs on its own: the latches are clear between steps (R217 to R220). -/
theorem execDrain_keeps_inv (hi : s.Inv) : Leads (execDrain s) State.Inv :=
  leads_whenEnabled _ (fun _ => hi) fun hen => by simp [State.drainEnabled, hi.latch, Latches.clear] at hen

theorem execSendNoconf_keeps_inv (hi : s.Inv) : Leads (execSendNoconf s) State.Inv :=
  leads_whenEnabled _ (fun _ => hi) fun hen => by simp [State.sendNoconfEnabled, hi.latch, Latches.clear] at hen

theorem execSendConf_keeps_inv (hi : s.Inv) : Leads (execSendConf s) State.Inv :=
  leads_whenEnabled _ (fun _ => hi) fun hen => by simp [State.sendConfEnabled, hi.latch, Latches.clear] at hen

/-- Nor does `SEQ_VALIDATE` (R254). -/
theorem execSeqValidate_keeps_inv (hi : s.Inv) : Leads (execSeqValidate s) State.Inv := by
  have hnone : s.latch.rxFrame = none := by rw [hi.latch]; rfl
  have e : execSeqValidate s = .next s := by simp only [execSeqValidate, hnone]
  exact e ▸ leads_next hi

theorem execParse_keeps_inv (hi : s.Inv) (raw : List Byte) : Leads (execParse raw s) State.Inv :=
  inv_whenFree hi fun _ => by
    cases parse raw with
    | some f => exact inv_answer hi _
    | none => exact inv_raise hi _

theorem execBuild_keeps_inv (hi : s.Inv) (cap fcf : Half) (seq : Byte) (destPan srcPan : Half)
    (destAddr srcAddr payload : List Byte) :
    Leads (execBuild cap fcf seq destPan srcPan destAddr srcAddr payload s) State.Inv :=
  inv_whenFree hi fun _ => by
    cases build (operandFrame fcf seq destPan srcPan destAddr srcAddr payload) cap.toNat with
    | ok out => exact inv_answer hi _
    | error e => exact inv_raise hi _

theorem execRbResize_keeps_inv (hi : s.Inv) (rb : Byte) (n : Half) : Leads (execRbResize rb n s) State.Inv :=
  inv_onUserRing hi rb (leads_ite _ (fun _ => inv_raise hi _) fun hn =>
    inv_answer (hi.withUb (RingBuffer.resize_wf n.toNat (Nat.le_of_not_lt hn))) _)

/-- Every operation keeps the invariant. -/
theorem exec_keeps_inv (hi : s.Inv) (i : Instr) : Leads (exec i s) State.Inv := by
  cases i with
  | addrLen b =>
    exact inv_whenFree hi fun _ => leads_ite _ (fun _ => inv_raise hi _) fun _ => inv_answer hi _
  | addrMake mode bytes =>
    exact inv_whenFree hi fun _ => leads_ite _ (fun _ => inv_raise hi _) fun _ =>
      leads_ite _ (fun _ => inv_raise hi _) fun _ => inv_answer hi _
  | fcfUnpack w => exact inv_whenFree hi fun _ => inv_answer hi _
  | fcfPack f =>
    exact inv_whenFree hi fun _ => leads_ite _ (fun _ => inv_answer hi _) fun _ => inv_raise hi _
  | parse raw => exact execParse_keeps_inv hi raw
  | build cap fcf seq destPan srcPan destAddr srcAddr payload =>
    exact execBuild_keeps_inv hi cap fcf seq destPan srcPan destAddr srcAddr payload
  | rbWrite rb b => exact inv_ringUpdate hi rb (s.ub.write_wf b hi.ub) _
  | rbWriteArray rb data => exact inv_ringUpdate hi rb (s.ub.writeArray_wf data hi.ub) _
  | rbRead rb => exact inv_ringUpdate hi rb (s.ub.read_wf hi.ub) _
  | rbReadArray rb n => exact inv_ringUpdate hi rb (s.ub.consume_wf n.toNat hi.ub) _
  | rbPeek rb => exact inv_ringQuery hi rb _
  | rbAvailable rb => exact inv_ringQuery hi rb _
  | rbAvailableForWrite rb => exact inv_ringQuery hi rb _
  | rbIsFull rb => exact inv_ringQuery hi rb _
  | rbIsEmpty rb => exact inv_ringQuery hi rb _
  | rbResize rb n => exact execRbResize_keeps_inv hi rb n
  | cfgWrite idx val => exact execCfgWrite_keeps_inv hi idx val
  | tBegin => exact execTBegin_keeps_inv hi
  | tEnd => exact execTEnd_keeps_inv hi
  | tWrite b => exact execTWrite_keeps_inv hi b
  | tFlush => exact execTFlush_keeps_inv hi
  | tReceive => exact execTReceive_keeps_inv hi
  | tRead => exact execTRead_keeps_inv hi
  | tReadBytes n timeout => exact execTReadBytes_keeps_inv hi n timeout
  | tAvailable => exact inv_whenLive hi fun _ _ => inv_answer hi _
  | tMeta => exact inv_whenLive hi fun _ _ => inv_answer hi _
  | evTxDone => exact execEvTxDone_keeps_inv hi
  | evTxFailed errorCode => exact execEvTxFailed_keeps_inv hi errorCode
  | evAckTimeout => exact execEvAckTimeout_keeps_inv hi
  | evRetryDelayDone => exact execEvRetryDelayDone_keeps_inv hi
  | evReadTimeout => exact execEvReadTimeout_keeps_inv hi
  | evRxEnqueue raw rssi lqi channel => exact leads_next (hi.outside _ _ _)
  | sendNoconf => exact execSendNoconf_keeps_inv hi
  | sendConf => exact execSendConf_keeps_inv hi
  | arqIssue => exact execArqIssue_keeps_inv hi
  | arqDecide => exact execArqDecide_keeps_inv hi
  | seqValidate => exact execSeqValidate_keeps_inv hi
  | rdStep => exact execRdStep_keeps_inv hi
  | drain => exact execDrain_keeps_inv hi
  | fcfWord w => exact leads_refused _

end Steps

/-- Settles O4: a step changes the ports only, asserts the reset input, or runs one operation, and each of the
three keeps the invariant. -/
theorem stepKeepsInvariant : Obligations.StepKeepsInvariant := by
  intro s t hi h
  rcases step_eq_next s t h with ⟨io, rfl⟩ | ⟨io, rfl⟩ | ⟨_, _, i, io, _, hexec, _⟩
  · exact s.inv_withIo io hi
  · exact State.inv_hardReset _
  · exact exec_keeps_inv (s.inv_withIo io hi) i t hexec

/-! ### Ring buffers over any operations -/

theorem RingTrace.next_wf (r : RingTrace) (h : r.rb.Wf) (c : RingCmd) : (r.next c).rb.Wf := by
  cases c with
  | write b => exact r.rb.write_wf b h
  | writeArray data => exact r.rb.writeArray_wf data h
  | read => exact r.rb.read_wf h
  | readArray n => exact r.rb.consume_wf n h

/-- R26 is kept along every sequence of operations. -/
theorem RingTrace.foldl_wf (cmds : List RingCmd) (r : RingTrace) (h : r.rb.Wf) :
    (cmds.foldl RingTrace.next r).rb.Wf := by
  induction cmds generalizing r with
  | nil => exact h
  | cons c cmds ih => exact ih (r.next c) (r.next_wf h c)

theorem RingBuffer.Wf.tail_lt {rb : RingBuffer} (h : rb.Wf) (hc : 1 ≤ rb.cap) : rb.tail < rb.cap :=
  h.tail hc ▸ Nat.mod_lt _ hc

theorem RingBuffer.Wf.count_add_space {rb : RingBuffer} (h : rb.Wf) : rb.count + rb.space = rb.cap :=
  Nat.add_sub_cancel' h.count

/-- Settles O31: a buffer is well formed along every run of operations, and the rest follows from that. -/
theorem ringInvariants : Obligations.RingInvariants := by
  refine ⟨RingBuffer.empty_wf, fun n => RingBuffer.resize_wf _ (Nat.le_of_lt_succ n.isLt), fun rb cmds h => ?_⟩
  have hw : (ringRun rb cmds).rb.Wf := RingTrace.foldl_wf cmds ⟨rb, [], []⟩ h
  exact ⟨hw.count, fun hc => ⟨hw.head hc, hw.tail_lt hc, hw.tail hc⟩, RingBuffer.isFull_iff _,
    RingBuffer.isEmpty_iff _, hw.count_add_space, hw⟩

/-! ### Reset -/

theorem CfgRegs.reset_value (i : Nat) : CfgRegs.reset.value i = 0 := by
  unfold CfgRegs.value
  split <;> rfl

/-- Settles O1: each register group of `State.reset` is read off its definition. -/
theorem resetValues : Obligations.ResetValues := by
  refine ⟨⟨rfl, rfl⟩, ⟨rfl, rfl, rfl, rfl, rfl, rfl, rfl⟩, ⟨rfl, rfl, rfl⟩, ⟨rfl, rfl, rfl, rfl, rfl, rfl⟩,
    ?_, ⟨CfgRegs.reset_value, rfl, rfl, rfl, rfl, rfl, rfl⟩, ⟨rfl, rfl, rfl, rfl, rfl, rfl⟩⟩
  intro rb hrb
  have e : rb = .empty := by simpa [State.reset, TxRegs.reset, RxRegs.reset] using hrb
  exact e ▸ ⟨rfl, rfl, rfl, rfl⟩

/-- Settles O3: the transmit registers are those of a session's end, and nothing has been received or read. -/
theorem resetSatisfiesInvariant : Obligations.ResetSatisfiesInvariant :=
  State.inv_of_sound
    (TxRegs.sound_fresh (c := 0) (q := 0) (Nat.zero_le _) (fun h => Bool.noConfusion h) fun _ => ⟨rfl, rfl⟩)
    (RxRegs.sound_of_resized (c := 0) rfl rfl ⟨rfl, rfl, rfl⟩ (Nat.zero_le _) (fun h => Bool.noConfusion h)
      fun _ => rfl)
    RdRegs.sound_reset RingBuffer.empty_wf rfl ⟨by decide, by decide⟩ fun h => absurd rfl h

end Sys2Proof.Machine

/-! ## Proofs: steps and directions (20_memory.md)

A step is followed from the turn to the operation. The two directions are shown independent by one argument:
replacing a register group an operation does not work on may come before the operation or after it. The shared
operations of the transport have this property one by one, the gates in front of an operation pass it on, and each
operation is put together from them. -/

namespace Sys2Proof.Machine

/-! ### From the turn to the operation -/

section Turns

variable {s t : State} {i : Instr} {m : List Byte} {ms : List (List Byte)}

theorem step_of_run (h : fetch s = .run i t) : step s = exec i t := by
  simp only [step, h]

theorem fetch_of_turn {turn : Turn} {rest : List Turn} (h : s.io.schedule = turn :: rest) :
    fetch s = fetchSlot turn.slot (s.startTurn turn rest) := by
  simp only [fetch, h]

/-- The application agent's turn at an idle port, with a command waiting (R71, R110). -/
theorem fetchCommand_of_accepted (hfree : s.appCmd = .none) (hm : s.io.cmdPort = m :: ms)
    (hd : decodeOn .command m = .accepted i) : fetchCommand s = .run i (s.setCmdPort ms) := by
  have hidle : s.appBusy = false := by simp [State.appBusy, hfree]
  simp only [fetchCommand, hidle, Bool.false_eq_true, if_false, hm, hd]

/-- A turn of the radio or timer agent, with an event waiting (R110). -/
theorem fetchEvent_of_accepted (hm : s.io.evPort = m :: ms) (hd : decodeOn .event m = .accepted i) :
    fetchEvent s = .run i (s.setEvPort ms) := by
  simp only [fetchEvent, hm, hd]

/-- The sequencer's turn (R70, R110). -/
theorem fetchInternal_of_accepted {op : Byte} (hd : decodeOn .internal [op] = .accepted i) :
    fetchInternal op s = .run i s := by
  simp only [fetchInternal, hd]

end Turns

/-- Settles O5: the turn leads to its port, the port to its oldest message, and the message to what it decodes to. -/
theorem stepRunsDecodedInstruction : Obligations.StepRunsDecodedInstruction := by
  intro s a rest i m ms op
  refine ⟨fun hturn hfree hm hd => ?_, fun hturn hm hd => ?_, fun hturn hd => ?_⟩
  · exact step_of_run ((fetch_of_turn hturn).trans (fetchCommand_of_accepted hfree hm hd))
  · exact step_of_run ((fetch_of_turn hturn).trans (fetchEvent_of_accepted hm hd))
  · exact step_of_run ((fetch_of_turn hturn).trans (fetchInternal_of_accepted hd))

/-! ### A replacement may come before a gate or after it -/

/-- `f` leaves alone what the gates in front of the operations look at, and may come before a response or after
it. -/
structure SparesGates (f : State → State) : Prop where
  appCmd : ∀ s, (f s).appCmd = s.appCmd
  live : ∀ s, (f s).live = s.live
  respond : ∀ s st r, (f s).respond st r = f (s.respond st r)

section Gates

variable {f : State → State} {s : State} {k l k' l' : Host.Outcome State Fault Refusal}

theorem ite_eq_map_ite {α : Type} (g : α → α) (c : Prop) [Decidable c] {a b a' b' : α} (ha : a' = g a)
    (hb : b' = g b) : (if c then a' else b') = g (if c then a else b) := by
  rw [ha, hb, apply_ite g]

theorem thenNext_ite (c : Prop) [Decidable c] (hk : k' = thenNext k f) (hl : l' = thenNext l f) :
    (if c then k' else l') = thenNext (if c then k else l) f := ite_eq_map_ite (thenNext · f) c hk hl

theorem thenNext_next_ite (c : Prop) [Decidable c] {t u t' u' : State} (ht : t' = f t) (hu : u' = f u) :
    .next (if c then t' else u') = thenNext (.next (if c then t else u)) f :=
  congrArg _ (ite_eq_map_ite f c ht hu)

theorem thenNext_whenEnabled (c : Bool) (hk : k' = thenNext k f) :
    whenEnabled c (f s) k' = thenNext (whenEnabled c s k) f := thenNext_ite _ hk rfl

theorem SparesGates.answer (hf : SparesGates f) (s : State) (r : List Byte) :
    answer (f s) r = thenNext (answer s r) f := congrArg _ (hf.respond s .ok r)

theorem SparesGates.whenFree (hf : SparesGates f) (hk : k' = thenNext k f) :
    whenFree (f s) k' = thenNext (whenFree s k) f := by
  by_cases hfree : s.appCmd = .none
  · rw [whenFree_of_idle s k hfree, whenFree_of_idle (f s) k' ((hf.appCmd s).trans hfree), hk]
  · rw [whenFree_of_busy s k hfree, whenFree_of_busy (f s) k' (hf.appCmd s ▸ hfree)]
    rfl

theorem SparesGates.whenLive (hf : SparesGates f) (hk : k' = thenNext k f) :
    whenLive (f s) k' = thenNext (whenLive s k) f := by
  refine hf.whenFree ?_
  rw [hf.live]
  exact thenNext_ite _ hk (congrArg _ (hf.respond s .refused []))

end Gates

/-! ### The receive path and the transmit registers -/

/-- The transmit registers and buffers are replaced. -/
def State.replaceTx (x : TxRegs) (s : State) : State := { s with tx := x }

theorem State.replaceTx_sparesGates (x : TxRegs) : SparesGates (State.replaceTx x) :=
  ⟨fun _ => rfl, fun _ => rfl, fun _ _ _ => rfl⟩

section Receive

variable (x : TxRegs) (s : State)

theorem State.receiveStep_replaceTx :
    (s.replaceTx x).receiveStep
      = ⟨s.receiveStep.state.replaceTx x, s.receiveStep.status, s.receiveStep.progress⟩ := by
  rw [State.receiveStep_frame]
  exact s.receiveStep_over (s.replaceTx x)

theorem State.startRead_replaceTx (n : Nat) (timeout : Word32) :
    (s.replaceTx x).startRead n timeout = (s.startRead n timeout).replaceTx x :=
  ite_eq_map_ite (State.replaceTx x) _ rfl rfl

theorem execTReceive_replaceTx : execTReceive (s.replaceTx x) = thenNext (execTReceive s) (State.replaceTx x) :=
  (State.replaceTx_sparesGates x).whenLive (by rw [State.receiveStep_replaceTx]; rfl)

theorem execTRead_replaceTx : execTRead (s.replaceTx x) = thenNext (execTRead s) (State.replaceTx x) :=
  (State.replaceTx_sparesGates x).whenLive (congrArg _ (s.startRead_replaceTx x 1 Config.readTimeout))

theorem execTReadBytes_replaceTx (n : Half) (timeout : Word32) :
    execTReadBytes n timeout (s.replaceTx x) = thenNext (execTReadBytes n timeout s) (State.replaceTx x) :=
  (State.replaceTx_sparesGates x).whenLive (congrArg _ (s.startRead_replaceTx x n.toNat timeout))

theorem execTAvailable_replaceTx :
    execTAvailable (s.replaceTx x) = thenNext (execTAvailable s) (State.replaceTx x) :=
  (State.replaceTx_sparesGates x).whenLive ((State.replaceTx_sparesGates x).answer s _)

theorem execTMeta_replaceTx : execTMeta (s.replaceTx x) = thenNext (execTMeta s) (State.replaceTx x) :=
  (State.replaceTx_sparesGates x).whenLive ((State.replaceTx_sparesGates x).answer s _)

theorem execEvReadTimeout_replaceTx :
    execEvReadTimeout (s.replaceTx x) = thenNext (execEvReadTimeout s) (State.replaceTx x) :=
  thenNext_whenEnabled s.rd.timerArmed rfl

theorem execSeqValidate_replaceTx :
    execSeqValidate (s.replaceTx x) = thenNext (execSeqValidate s) (State.replaceTx x) := by
  have hlatch : (s.replaceTx x).latch = s.latch := rfl
  cases hf : s.latch.rxFrame with
  | none =>
    simp only [execSeqValidate, hlatch, hf]
    rfl
  | some f =>
    simp only [execSeqValidate, hlatch, hf]
    rfl

/-- A turn of the read loop collects from what the receive step leaves (R266). -/
theorem execRdStep_replaceTx : execRdStep (s.replaceTx x) = thenNext (execRdStep s) (State.replaceTx x) := by
  refine thenNext_whenEnabled s.rd.active ?_
  rw [State.receiveStep_replaceTx]
  exact thenNext_next_ite _ rfl (ite_eq_map_ite (State.replaceTx x) _ rfl rfl)

theorem exec_replaceTx_of_receiveOp (i : Instr) (hi : receiveOp i = true) :
    exec i (s.replaceTx x) = thenNext (exec i s) (State.replaceTx x) := by
  cases i with
  | tReceive => exact execTReceive_replaceTx x s
  | tRead => exact execTRead_replaceTx x s
  | tReadBytes n timeout => exact execTReadBytes_replaceTx x s n timeout
  | tAvailable => exact execTAvailable_replaceTx x s
  | tMeta => exact execTMeta_replaceTx x s
  | evReadTimeout => exact execEvReadTimeout_replaceTx x s
  | evRxEnqueue raw rssi lqi channel => rfl
  | seqValidate => exact execSeqValidate_replaceTx x s
  | rdStep => exact execRdStep_replaceTx x s
  | _ => exact Bool.noConfusion hi

end Receive

/-! ### The transmit path and the receive registers -/

/-- The receive registers and buffers are replaced. -/
def State.replaceRx (x : RxRegs) (s : State) : State := { s with rx := x }

theorem State.replaceRx_sparesGates (x : RxRegs) : SparesGates (State.replaceRx x) :=
  ⟨fun _ => rfl, fun _ => rfl, fun _ _ _ => rfl⟩

section Transmit

variable (x : RxRegs) (s : State)

theorem State.makeFrame_replaceRx (chunk : List Byte) :
    (s.replaceRx x).makeFrame chunk = (s.makeFrame chunk).map (State.replaceRx x) := by
  have hframe : (s.replaceRx x).txFrameOf chunk = s.txFrameOf chunk := rfl
  cases hb : build (s.txFrameOf chunk) Config.frameMax with
  | ok out =>
    simp only [State.makeFrame, hframe, hb]
    rfl
  | error e =>
    simp only [State.makeFrame, hframe, hb]
    rfl

theorem State.sendOnce_replaceRx : (s.replaceRx x).sendOnce = s.sendOnce.replaceRx x :=
  ite_eq_map_ite (State.replaceRx x) _ rfl rfl

theorem State.startSendNoconf_replaceRx :
    (s.replaceRx x).startSendNoconf = thenNext s.startSendNoconf (State.replaceRx x) := by
  have hchunk : (s.replaceRx x).theChunk = s.theChunk := rfl
  cases hm : s.makeFrame s.theChunk with
  | none =>
    simp only [State.startSendNoconf, hchunk, State.makeFrame_replaceRx, hm]
    rfl
  | some t =>
    simp only [State.startSendNoconf, hchunk, State.makeFrame_replaceRx, hm]
    exact congrArg _ (t.takeChunk.sendOnce_replaceRx x)

theorem State.startSendConf_replaceRx :
    (s.replaceRx x).startSendConf = thenNext s.startSendConf (State.replaceRx x) := by
  have hchunk : (s.replaceRx x).theChunk = s.theChunk := rfl
  cases hm : s.makeFrame s.theChunk with
  | none =>
    simp only [State.startSendConf, hchunk, State.makeFrame_replaceRx, hm]
    rfl
  | some t =>
    simp only [State.startSendConf, hchunk, State.makeFrame_replaceRx, hm]
    rfl

/-- Neither send of a drained chunk can stop, so each is a state to compare (R216). -/
theorem State.drainAndSend_replaceRx (c : AppCmd) (results : List Byte) :
    (s.replaceRx x).drainAndSend c results = thenNext (s.drainAndSend c results) (State.replaceRx x) := by
  by_cases hack : s.ackRequested = true
  · rw [s.drainAndSend_confirmed c results hack, (s.replaceRx x).drainAndSend_confirmed c results hack]
    rfl
  · have hack : s.ackRequested = false := by simpa using hack
    rw [s.drainAndSend_unconfirmed c results hack, (s.replaceRx x).drainAndSend_unconfirmed c results hack]
    exact congrArg (fun t => Host.Outcome.next (State.respond t .ok results)) ((s.framed _).sendOnce_replaceRx x)

theorem State.completeSend_replaceRx : (s.replaceRx x).completeSend = s.completeSend.replaceRx x := by
  have hcmd : (s.replaceRx x).appCmd = s.appCmd := rfl
  unfold State.completeSend
  rw [hcmd]
  split <;> rfl

theorem State.failAttempt_replaceRx : (s.replaceRx x).failAttempt = s.failAttempt.replaceRx x :=
  have hdropped := ((s.setRetries (s.tx.retriesLeft - 1)).advanceSeq.endSend.diag .dropped
    [s.tx.outSeq.toNat]).completeSend_replaceRx x
  ite_eq_map_ite (State.replaceRx x) _ hdropped rfl

theorem execTWrite_replaceRx (b : Byte) :
    execTWrite b (s.replaceRx x) = thenNext (execTWrite b s) (State.replaceRx x) :=
  (State.replaceRx_sparesGates x).whenLive
    (thenNext_ite _ rfl (thenNext_ite _ ((s.setTxb (s.tx.txb.write b)).drainAndSend_replaceRx x _ _) rfl))

theorem execTFlush_replaceRx : execTFlush (s.replaceRx x) = thenNext (execTFlush s) (State.replaceRx x) :=
  (State.replaceRx_sparesGates x).whenLive (thenNext_ite _ rfl (s.drainAndSend_replaceRx x _ _))

theorem execEvTxDone_replaceRx : execEvTxDone (s.replaceRx x) = thenNext (execEvTxDone s) (State.replaceRx x) :=
  thenNext_next_ite _ rfl rfl

theorem execEvTxFailed_replaceRx (errorCode : Word32) :
    execEvTxFailed errorCode (s.replaceRx x) = thenNext (execEvTxFailed errorCode s) (State.replaceRx x) :=
  thenNext_next_ite _ rfl rfl

theorem execArqIssue_replaceRx : execArqIssue (s.replaceRx x) = thenNext (execArqIssue s) (State.replaceRx x) :=
  thenNext_whenEnabled s.arqIssueEnabled (thenNext_next_ite _ rfl rfl)

theorem execArqDecide_replaceRx :
    execArqDecide (s.replaceRx x) = thenNext (execArqDecide s) (State.replaceRx x) :=
  thenNext_whenEnabled s.arqDecideEnabled
    (thenNext_next_ite _ (s.advanceSeq.endSend.completeSend_replaceRx x) (s.failAttempt_replaceRx x))

theorem exec_replaceRx_of_transmitOp (i : Instr) (hi : transmitOp i = true) :
    exec i (s.replaceRx x) = thenNext (exec i s) (State.replaceRx x) := by
  cases i with
  | tWrite b => exact execTWrite_replaceRx x s b
  | tFlush => exact execTFlush_replaceRx x s
  | evTxDone => exact execEvTxDone_replaceRx x s
  | evTxFailed errorCode => exact execEvTxFailed_replaceRx x s errorCode
  | evAckTimeout => exact thenNext_whenEnabled s.tx.ackTimerArmed rfl
  | evRetryDelayDone => exact thenNext_whenEnabled s.tx.delayArmed rfl
  | sendNoconf => exact thenNext_whenEnabled s.sendNoconfEnabled (s.startSendNoconf_replaceRx x)
  | sendConf => exact thenNext_whenEnabled s.sendConfEnabled (s.startSendConf_replaceRx x)
  | arqIssue => exact execArqIssue_replaceRx x s
  | arqDecide => exact execArqDecide_replaceRx x s
  | drain => exact thenNext_whenEnabled s.drainEnabled rfl
  | _ => exact Bool.noConfusion hi

end Transmit

/-- Settles O57: replacing the other direction's registers may come before each operation or after it. -/
theorem directionsAreIndependent : Obligations.DirectionsAreIndependent :=
  ⟨fun i s x hi => exec_replaceTx_of_receiveOp x s i hi, fun i s x hi => exec_replaceRx_of_transmitOp x s i hi⟩

end Sys2Proof.Machine

/-! ## Proofs: encodings (30_encoding.md)

Each operand format of R111 is characterised once: what it reads off the front of a byte sequence is an operand
written in the layout of the format, with the rest left over. Read from right to left this says that the decoder
reads back what the encoder writes, read from left to right that it accepts nothing else. -/

namespace Sys2Proof

/-! ### Little-endian words of `k` bytes (R14, R60) -/

theorem two_pow_eight_mul (k : Nat) : 2 ^ (8 * k) = 256 ^ k := by rw [Nat.pow_mul]

theorem ofNat_leNat_leBytes (k : Nat) (v : BitVec (8 * k)) :
    BitVec.ofNat (8 * k) (leNat (leBytes k v.toNat)) = v := by
  rw [leNat_leBytes_of_lt k _ (two_pow_eight_mul k ▸ v.isLt), BitVec.ofNat_toNat, BitVec.setWidth_eq]

theorem leBytes_toNat_ofNat_leNat (bs : List Byte) :
    leBytes bs.length (BitVec.ofNat (8 * bs.length) (leNat bs)).toNat = bs := by
  rw [BitVec.toNat_ofNat, two_pow_eight_mul, Nat.mod_eq_of_lt (leNat_lt bs), leBytes_leNat]

theorem leBytes_two_toNat (w : Half) : leBytes 2 w.toNat = halfBytes w := by
  have hlow : BitVec.ofNat 8 w.toNat = lo8 w := by
    apply BitVec.eq_of_toNat_eq
    simp [lo8]
  rw [leBytes_two, hlow]
  rfl

/-! ### What each operand format reads (R111) -/

section Formats

variable {bs rest : List Byte} {i : Instr}

theorem takeField_eq_ok {k : Nat} {f : List Byte → List Byte → Operanded} :
    takeField k bs f = .ok i rest
      ↔ ∃ field more, field.length = k ∧ bs = field ++ more ∧ f field more = .ok i rest := by
  constructor
  · intro h
    cases hs : splitBytes k bs with
    | none => simp [takeField, hs] at h
    | some parts =>
      obtain ⟨hbs, hlen⟩ := splitBytes_eq_some k bs parts.1 parts.2 hs
      exact ⟨parts.1, parts.2, hlen, hbs, by simpa only [takeField, hs] using h⟩
  · rintro ⟨field, more, hlen, rfl, h⟩
    simpa only [takeField, splitBytes_append_of_length k field more hlen] using h

theorem takeCounted_eq_ok {f : List Byte → List Byte → Operanded} :
    takeCounted bs f = .ok i rest
      ↔ ∃ data more, data.length < 65536 ∧ bs = countedBytes data ++ more ∧ f data more = .ok i rest := by
  constructor
  · intro h
    match bs, h with
    | b0 :: b1 :: bs, h =>
      obtain ⟨data, more, hlen, rfl, hdata⟩ := takeField_eq_ok.mp h
      refine ⟨data, more, hlen ▸ (le16 b0 b1).isLt, ?_, hdata⟩
      rw [countedBytes, hlen, leBytes_two_toNat, halfBytes_le16]
      rfl
  · rintro ⟨data, more, hlen, rfl, h⟩
    exact takeField_eq_ok.mpr ⟨data, more, (toNat_le16_leBytes _ hlen).symm, rfl, h⟩

theorem formatC0_eq_ok {j : Instr} : formatC0 j bs = .ok i rest ↔ i = j ∧ bs = rest := by
  rw [formatC0, Operanded.ok.injEq, eq_comm (a := j)]

theorem formatCB_eq_ok {f : Byte → Instr} :
    formatCB f bs = .ok i rest ↔ ∃ b, i = f b ∧ bs = b :: rest := by
  constructor
  · intro h
    match bs, h with
    | b :: _, rfl => exact ⟨b, rfl, rfl⟩
  · rintro ⟨b, rfl, rfl⟩
    rfl

theorem formatCRB_eq_ok {f : Byte → Byte → Instr} :
    formatCRB f bs = .ok i rest ↔ ∃ b0 b1, i = f b0 b1 ∧ bs = b0 :: b1 :: rest := by
  constructor
  · intro h
    match bs, h with
    | b0 :: b1 :: _, rfl => exact ⟨b0, b1, rfl, rfl⟩
  · rintro ⟨b0, b1, rfl, rfl⟩
    rfl

theorem formatCW_eq_ok {f : Half → Instr} :
    formatCW f bs = .ok i rest ↔ ∃ w, i = f w ∧ bs = halfBytes w ++ rest := by
  constructor
  · intro h
    match bs, h with
    | b0 :: b1 :: _, rfl => exact ⟨le16 b0 b1, rfl, by rw [halfBytes_le16]; rfl⟩
  · rintro ⟨w, rfl, rfl⟩
    simp [formatCW, halfBytes]

/-- The operand bytes of format `CFCF`, in the order of R95. -/
def FcfBytes.toBytes (g : FcfBytes) : List Byte :=
  [g.frameType, g.securityEnabled, g.framePending, g.ackRequest, g.panIdCompression, g.reserved,
    g.sequenceNumberSuppression, g.informationElementsPresent, g.destAddrMode, g.frameVersion, g.srcAddrMode]

theorem formatCFCF_eq_ok {f : FcfBytes → Instr} :
    formatCFCF f bs = .ok i rest ↔ ∃ g, i = f g ∧ bs = g.toBytes ++ rest := by
  constructor
  · intro h
    match bs, h with
    | b0 :: b1 :: b2 :: b3 :: b4 :: b5 :: b6 :: b7 :: b8 :: b9 :: b10 :: _, rfl =>
      exact ⟨⟨b0, b1, b2, b3, b4, b5, b6, b7, b8, b9, b10⟩, rfl, rfl⟩
  · rintro ⟨g, rfl, rfl⟩
    rfl

theorem formatCADDR_eq_ok {f : Byte → List Byte → Instr} :
    formatCADDR f bs = .ok i rest
      ↔ ∃ m addr, addr.length = 8 ∧ i = f m addr ∧ bs = m :: (addr ++ rest) := by
  constructor
  · intro h
    match bs, h with
    | m :: bs, h =>
      obtain ⟨addr, _, hlen, rfl, ⟨⟩⟩ := takeField_eq_ok.mp h
      exact ⟨m, addr, hlen, rfl, rfl⟩
  · rintro ⟨m, addr, hlen, rfl, rfl⟩
    exact takeField_eq_ok.mpr ⟨addr, rest, hlen, rfl, rfl⟩

theorem formatCS_eq_ok {f : List Byte → Instr} :
    formatCS f bs = .ok i rest
      ↔ ∃ data, data.length < 65536 ∧ i = f data ∧ bs = countedBytes data ++ rest := by
  constructor
  · intro h
    obtain ⟨data, _, hlen, rfl, ⟨⟩⟩ := takeCounted_eq_ok.mp h
    exact ⟨data, hlen, rfl, rfl⟩
  · rintro ⟨data, hlen, rfl, rfl⟩
    exact takeCounted_eq_ok.mpr ⟨data, rest, hlen, rfl, rfl⟩

/-- The operand bytes of format `CF`. -/
def frameOperands (cap fcf : Half) (seq : Byte) (destPan srcPan : Half) (destAddr srcAddr payload : List Byte) :
    List Byte :=
  halfBytes cap ++ halfBytes fcf ++ [seq] ++ halfBytes destPan ++ halfBytes srcPan ++ destAddr ++ srcAddr
    ++ [BitVec.ofNat 8 payload.length] ++ payload

theorem formatCF_frameOperands {f : Half → Half → Byte → Half → Half → List Byte → List Byte → List Byte → Instr}
    {cap fcf destPan srcPan : Half} {seq : Byte} {destAddr srcAddr payload : List Byte}
    (hdest : destAddr.length = 8) (hsrc : srcAddr.length = 8) (hlen : payload.length < 256) :
    formatCF f (frameOperands cap fcf seq destPan srcPan destAddr srcAddr payload ++ rest)
      = .ok (f cap fcf seq destPan srcPan destAddr srcAddr payload) rest := by
  have hcount : payload.length = (BitVec.ofNat 8 payload.length).toNat :=
    (Nat.mod_eq_of_lt hlen).symm
  simp only [frameOperands, halfBytes, List.append_assoc, List.cons_append, List.nil_append, formatCF,
    le16_lo8_hi8]
  exact takeField_eq_ok.mpr ⟨destAddr, _, hdest, rfl, takeField_eq_ok.mpr ⟨srcAddr, _, hsrc, rfl,
    takeField_eq_ok.mpr ⟨payload, rest, hcount, rfl, rfl⟩⟩⟩

theorem formatCF_eq_ok {f : Half → Half → Byte → Half → Half → List Byte → List Byte → List Byte → Instr} :
    formatCF f bs = .ok i rest
      ↔ ∃ cap fcf seq destPan srcPan destAddr srcAddr payload,
          (destAddr.length = 8 ∧ srcAddr.length = 8 ∧ payload.length < 256)
          ∧ i = f cap fcf seq destPan srcPan destAddr srcAddr payload
          ∧ bs = frameOperands cap fcf seq destPan srcPan destAddr srcAddr payload ++ rest := by
  constructor
  · intro h
    match bs, h with
    | c0 :: c1 :: w0 :: w1 :: q :: d0 :: d1 :: s0 :: s1 :: bs, h =>
      obtain ⟨dest, _, hdest, rfl, hdestRest⟩ := takeField_eq_ok.mp h
      obtain ⟨src, more, hsrc, rfl, hsrcRest⟩ := takeField_eq_ok.mp hdestRest
      match more, hsrcRest with
      | plen :: more, hcount =>
        obtain ⟨payload, _, hlen, rfl, ⟨⟩⟩ := takeField_eq_ok.mp hcount
        refine ⟨le16 c0 c1, le16 w0 w1, q, le16 d0 d1, le16 s0 s1, dest, src, payload,
          ⟨hdest, hsrc, hlen ▸ plen.isLt⟩, rfl, ?_⟩
        simp [frameOperands, hlen]
  · rintro ⟨cap, fcf, seq, destPan, srcPan, destAddr, srcAddr, payload, ⟨hdest, hsrc, hlen⟩, rfl, rfl⟩
    exact formatCF_frameOperands hdest hsrc hlen

theorem formatCRN_eq_ok {f : Byte → Half → Instr} :
    formatCRN f bs = .ok i rest ↔ ∃ rb n, i = f rb n ∧ bs = rb :: (halfBytes n ++ rest) := by
  constructor
  · intro h
    match bs, h with
    | rb :: n0 :: n1 :: _, rfl => exact ⟨rb, le16 n0 n1, rfl, by rw [halfBytes_le16]; rfl⟩
  · rintro ⟨rb, n, rfl, rfl⟩
    simp [formatCRN, halfBytes]

theorem formatCRS_eq_ok {f : Byte → List Byte → Instr} :
    formatCRS f bs = .ok i rest
      ↔ ∃ rb data, data.length < 65536 ∧ i = f rb data ∧ bs = rb :: (countedBytes data ++ rest) := by
  constructor
  · intro h
    match bs, h with
    | rb :: bs, h =>
      obtain ⟨data, _, hlen, rfl, ⟨⟩⟩ := takeCounted_eq_ok.mp h
      exact ⟨rb, data, hlen, rfl, rfl⟩
  · rintro ⟨rb, data, hlen, rfl, rfl⟩
    exact takeCounted_eq_ok.mpr ⟨data, rest, hlen, rfl, rfl⟩

theorem formatEVE_eq_ok {f : Word32 → Instr} :
    formatEVE f bs = .ok i rest ↔ ∃ v, i = f v ∧ bs = leBytes 4 v.toNat ++ rest := by
  constructor
  · intro h
    match bs, h with
    | t0 :: t1 :: t2 :: t3 :: _, rfl =>
      exact ⟨_, rfl, congrArg (· ++ rest) (leBytes_toNat_ofNat_leNat [t0, t1, t2, t3]).symm⟩
  · rintro ⟨v, rfl, rfl⟩
    exact congrArg (fun v => Operanded.ok (f v) rest) (ofNat_leNat_leBytes 4 v)

theorem formatCN_eq_ok {f : Half → Word32 → Instr} :
    formatCN f bs = .ok i rest
      ↔ ∃ n timeout, i = f n timeout ∧ bs = halfBytes n ++ leBytes 4 timeout.toNat ++ rest := by
  constructor
  · intro h
    match bs, h with
    | n0 :: n1 :: t0 :: t1 :: t2 :: t3 :: _, rfl =>
      refine ⟨le16 n0 n1, _, rfl, ?_⟩
      rw [halfBytes_le16]
      exact congrArg (fun ts => [n0, n1] ++ ts ++ rest) (leBytes_toNat_ofNat_leNat [t0, t1, t2, t3]).symm
  · rintro ⟨n, timeout, rfl, rfl⟩
    exact congrArg₂ (fun n v => Operanded.ok (f n v) rest) (le16_lo8_hi8 n) (ofNat_leNat_leBytes 4 timeout)

theorem formatCCFG_eq_ok {f : Byte → Word64 → Instr} :
    formatCCFG f bs = .ok i rest ↔ ∃ idx v, i = f idx v ∧ bs = idx :: (leBytes 8 v.toNat ++ rest) := by
  constructor
  · intro h
    match bs, h with
    | idx :: v0 :: v1 :: v2 :: v3 :: v4 :: v5 :: v6 :: v7 :: _, rfl =>
      exact ⟨idx, _, rfl, congrArg (fun vs => idx :: (vs ++ rest))
        (leBytes_toNat_ofNat_leNat [v0, v1, v2, v3, v4, v5, v6, v7]).symm⟩
  · rintro ⟨idx, v, rfl, rfl⟩
    exact congrArg (fun v => Operanded.ok (f idx v) rest) (ofNat_leNat_leBytes 8 v)

theorem formatEVRX_eq_ok {f : List Byte → Byte → Byte → Byte → Instr} :
    formatEVRX f bs = .ok i rest
      ↔ ∃ raw rssi lqi channel, raw.length < 65536 ∧ i = f raw rssi lqi channel
          ∧ bs = countedBytes raw ++ [rssi, lqi, channel] ++ rest := by
  constructor
  · intro h
    obtain ⟨raw, more, hlen, rfl, hmeta⟩ := takeCounted_eq_ok.mp h
    match more, hmeta with
    | rssi :: lqi :: channel :: _, rfl =>
      exact ⟨raw, rssi, lqi, channel, hlen, rfl, by simp⟩
  · rintro ⟨raw, rssi, lqi, channel, hlen, rfl, rfl⟩
    exact takeCounted_eq_ok.mpr ⟨raw, _, hlen, List.append_assoc _ _ _, rfl⟩

end Formats

/-! ### The decoder reads back what the encoder writes (R112) -/

/-- The encodings of R112 need no mark at their end: whatever follows one is left over. -/
theorem decodeFirst_encode_append (i : Instr) (rest : List Byte) (hw : i.WellFormed) (hp : i.port ≠ .wire) :
    decodeFirst (encode i ++ rest) = .ok i rest := by
  cases i with
  | addrLen b => exact formatCB_eq_ok.mpr ⟨b, rfl, rfl⟩
  | addrMake mode bytes => exact formatCADDR_eq_ok.mpr ⟨mode, bytes, beq_iff_eq.mp hw, rfl, rfl⟩
  | fcfUnpack w => exact formatCW_eq_ok.mpr ⟨w, rfl, rfl⟩
  | fcfPack g => exact formatCFCF_eq_ok.mpr ⟨g, rfl, rfl⟩
  | parse raw => exact formatCS_eq_ok.mpr ⟨raw, of_decide_eq_true hw, rfl, rfl⟩
  | build cap fcf seq destPan srcPan destAddr srcAddr payload =>
    obtain ⟨⟨hdest, hsrc⟩, hlen⟩ : (destAddr.length = 8 ∧ srcAddr.length = 8) ∧ payload.length < 256 := by
      simpa [Instr.WellFormed, Instr.wellFormed] using hw
    exact formatCF_frameOperands hdest hsrc hlen
  | rbWrite rb b => exact formatCRB_eq_ok.mpr ⟨rb, b, rfl, rfl⟩
  | rbWriteArray rb data => exact formatCRS_eq_ok.mpr ⟨rb, data, of_decide_eq_true hw, rfl, rfl⟩
  | rbRead rb => exact formatCB_eq_ok.mpr ⟨rb, rfl, rfl⟩
  | rbReadArray rb n => exact formatCRN_eq_ok.mpr ⟨rb, n, rfl, rfl⟩
  | rbPeek rb => exact formatCB_eq_ok.mpr ⟨rb, rfl, rfl⟩
  | rbAvailable rb => exact formatCB_eq_ok.mpr ⟨rb, rfl, rfl⟩
  | rbAvailableForWrite rb => exact formatCB_eq_ok.mpr ⟨rb, rfl, rfl⟩
  | rbIsFull rb => exact formatCB_eq_ok.mpr ⟨rb, rfl, rfl⟩
  | rbIsEmpty rb => exact formatCB_eq_ok.mpr ⟨rb, rfl, rfl⟩
  | rbResize rb n => exact formatCRN_eq_ok.mpr ⟨rb, n, rfl, rfl⟩
  | cfgWrite idx val => exact formatCCFG_eq_ok.mpr ⟨idx, val, rfl, rfl⟩
  | tWrite b => exact formatCB_eq_ok.mpr ⟨b, rfl, rfl⟩
  | tReadBytes n timeout => exact formatCN_eq_ok.mpr ⟨n, timeout, rfl, rfl⟩
  | evTxFailed errorCode => exact formatEVE_eq_ok.mpr ⟨errorCode, rfl, rfl⟩
  | evRxEnqueue raw rssi lqi channel =>
    exact formatEVRX_eq_ok.mpr ⟨raw, rssi, lqi, channel, of_decide_eq_true hw, rfl, rfl⟩
  | fcfWord w => exact absurd rfl hp
  | _ => exact formatC0_eq_ok.mpr ⟨rfl, rfl⟩

/-! ### The decoder accepts nothing else (R115) -/

/-- What `o` reads from `bs` after the opcode `n` is a well-formed instruction, in the encoder's bytes. -/
def Operanded.ReadsEncoding (n : Nat) (bs : List Byte) (o : Operanded) : Prop :=
  ∀ i rest, o = .ok i rest → i.WellFormed ∧ encode i ++ rest = BitVec.ofNat 8 n :: bs

section ReadsEncoding

variable {n : Nat} {bs : List Byte}

theorem readsEncoding_rejected (e : DecodeError) : (Operanded.rejected e).ReadsEncoding n bs :=
  fun _ _ h => by cases h

theorem formatC0_readsEncoding {j : Instr} (hj : j.WellFormed ∧ encode j = [BitVec.ofNat 8 n]) :
    (formatC0 j bs).ReadsEncoding n bs := fun i rest h => by
  obtain ⟨rfl, rfl⟩ := formatC0_eq_ok.mp h
  obtain ⟨hw, he⟩ := hj
  exact ⟨hw, by rw [he]; rfl⟩

theorem formatCB_readsEncoding {f : Byte → Instr}
    (hf : ∀ b, (f b).WellFormed ∧ encode (f b) = [BitVec.ofNat 8 n, b]) :
    (formatCB f bs).ReadsEncoding n bs := fun i rest h => by
  obtain ⟨b, rfl, rfl⟩ := formatCB_eq_ok.mp h
  obtain ⟨hw, he⟩ := hf b
  exact ⟨hw, by rw [he]; rfl⟩

theorem formatCRN_readsEncoding {f : Byte → Half → Instr}
    (hf : ∀ rb m, (f rb m).WellFormed ∧ encode (f rb m) = BitVec.ofNat 8 n :: rb :: halfBytes m) :
    (formatCRN f bs).ReadsEncoding n bs := fun i rest h => by
  obtain ⟨rb, m, rfl, rfl⟩ := formatCRN_eq_ok.mp h
  obtain ⟨hw, he⟩ := hf rb m
  exact ⟨hw, by rw [he]; rfl⟩

end ReadsEncoding

/-- One case for each row of R112, grouped by format: `h_k` is the `k`-th opcode of the map. -/
theorem decodeOperands_readsEncoding (op : Byte) (bs : List Byte) :
    (decodeOperands op bs).ReadsEncoding op.toNat bs := by
  unfold decodeOperands
  generalize op.toNat = n
  split
  case h_1 | h_9 | h_11 | h_12 | h_13 | h_14 | h_15 | h_20 =>
    exact formatCB_readsEncoding fun _ => ⟨rfl, rfl⟩
  case h_10 | h_16 => exact formatCRN_readsEncoding fun _ _ => ⟨rfl, rfl⟩
  case h_18 | h_19 | h_21 | h_22 | h_23 | h_25 | h_26 | h_27 | h_29 | h_30 | h_31 | h_33 | h_34 | h_35 | h_36
      | h_37 | h_38 | h_39 =>
    exact formatC0_readsEncoding ⟨rfl, rfl⟩
  case h_40 => exact readsEncoding_rejected _
  all_goals intro i rest h
  case h_2 =>
    obtain ⟨mode, addr, hlen, rfl, rfl⟩ := formatCADDR_eq_ok.mp h
    exact ⟨beq_iff_eq.mpr hlen, rfl⟩
  case h_3 =>
    obtain ⟨w, rfl, rfl⟩ := formatCW_eq_ok.mp h
    exact ⟨rfl, rfl⟩
  case h_4 =>
    obtain ⟨g, rfl, rfl⟩ := formatCFCF_eq_ok.mp h
    exact ⟨rfl, rfl⟩
  case h_5 =>
    obtain ⟨raw, hlen, rfl, rfl⟩ := formatCS_eq_ok.mp h
    exact ⟨decide_eq_true hlen, rfl⟩
  case h_6 =>
    obtain ⟨cap, fcf, seq, destPan, srcPan, dest, src, payload, hfit, rfl, rfl⟩ := formatCF_eq_ok.mp h
    exact ⟨by simp [Instr.WellFormed, Instr.wellFormed, hfit], rfl⟩
  case h_7 =>
    obtain ⟨rb, b, rfl, rfl⟩ := formatCRB_eq_ok.mp h
    exact ⟨rfl, rfl⟩
  case h_8 =>
    obtain ⟨rb, data, hlen, rfl, rfl⟩ := formatCRS_eq_ok.mp h
    exact ⟨decide_eq_true hlen, rfl⟩
  case h_17 =>
    obtain ⟨idx, v, rfl, rfl⟩ := formatCCFG_eq_ok.mp h
    exact ⟨rfl, rfl⟩
  case h_24 =>
    obtain ⟨m, timeout, rfl, rfl⟩ := formatCN_eq_ok.mp h
    exact ⟨rfl, rfl⟩
  case h_28 =>
    obtain ⟨errorCode, rfl, rfl⟩ := formatEVE_eq_ok.mp h
    exact ⟨rfl, rfl⟩
  case h_32 =>
    obtain ⟨raw, rssi, lqi, channel, hlen, rfl, rfl⟩ := formatEVRX_eq_ok.mp h
    exact ⟨decide_eq_true hlen, rfl⟩

theorem encode_of_decodeFirst_ok {m rest : List Byte} {i : Instr} (h : decodeFirst m = .ok i rest) :
    i.WellFormed ∧ encode i ++ rest = m := by
  match m, h with
  | op :: bs, h =>
    obtain ⟨hw, he⟩ := decodeOperands_readsEncoding op bs i rest h
    exact ⟨hw, by rwa [BitVec.ofNat_toNat, BitVec.setWidth_eq] at he⟩

/-! ### Whole messages at a port (R110, R115, R96) -/

/-- On a port of the block, a message is accepted that is one instruction of the port with nothing left over. -/
theorem decodeOn_eq_accepted {p : Port} (hp : p ≠ .wire) {m : List Byte} {i : Instr} :
    decodeOn p m = .accepted i ↔ decodeFirst m = .ok i [] ∧ i.port = p := by
  unfold decodeOn
  split
  · exact absurd rfl hp
  · cases decodeFirst m with
    | rejected e => simp
    | ok j rest =>
      constructor
      · intro h
        by_cases hj : j.port = p
        · by_cases hr : rest = []
          · obtain rfl : j = i := by simpa [hj, hr] using h
            exact ⟨by rw [hr], hj⟩
          · simp [hj, hr] at h
        · simp [hj] at h
      · rintro ⟨⟨⟩, hj⟩
        simp [hj]

/-- On the wire, a message is accepted that is the two bytes of an FCF word (R96). -/
theorem decodeOn_wire_eq_accepted {m : List Byte} {i : Instr} :
    decodeOn .wire m = .accepted i ↔ ∃ w, i = .fcfWord w ∧ m = halfBytes w := by
  constructor
  · intro h
    match m, h with
    | [b0, b1], rfl => exact ⟨le16 b0 b1, rfl, (halfBytes_le16 b0 b1).symm⟩
  · rintro ⟨w, rfl, rfl⟩
    simp [decodeOn, halfBytes]

/-- Settles O7: the encoding is read back with nothing left over, so the message is the instruction. -/
theorem decodeEncodeAgree : Obligations.DecodeEncodeAgree := by
  intro i hw
  by_cases hp : i.port = .wire
  · cases i with
    | fcfWord w => exact decodeOn_wire_eq_accepted.mpr ⟨w, rfl, rfl⟩
    | _ => cases hp
  · have hread := decodeFirst_encode_append i [] hw hp
    rw [List.append_nil] at hread
    exact (decodeOn_eq_accepted hp).mpr ⟨hread, rfl⟩

/-- Settles O8: what is read is in the encoder's bytes, and an accepted message leaves nothing over. -/
theorem onlyEncodingsAreAccepted : Obligations.OnlyEncodingsAreAccepted := by
  intro p m i h
  by_cases hp : p = .wire
  · subst hp
    obtain ⟨w, rfl, rfl⟩ := decodeOn_wire_eq_accepted.mp h
    exact ⟨rfl, rfl, rfl⟩
  · obtain ⟨hread, hport⟩ := (decodeOn_eq_accepted hp).mp h
    obtain ⟨hw, hm⟩ := encode_of_decodeFirst_ok hread
    exact ⟨hw, hport, by rwa [List.append_nil] at hm⟩

/-- Settles O9: the accepted words are what the encoder writes; each rejected one is read up to its fault. -/
theorem sampleWordsDecode : Obligations.SampleWordsDecode :=
  ⟨decodeEncodeAgree (.addrLen 3) rfl, decodeEncodeAgree (.fcfUnpack 0x8841) rfl,
    decodeEncodeAgree (.parse [0x03, 0x01, 0x00]) rfl, decodeEncodeAgree (.rbReadArray 2 10) rfl,
    decodeEncodeAgree (.cfgWrite 9 64) rfl, decodeEncodeAgree (.tReadBytes 3 1000) rfl,
    decodeEncodeAgree (.evTxFailed 7) rfl, decodeEncodeAgree (.evRxEnqueue [0x03, 0x01, 0x00] 0xC4 0xFF 0x0B) rfl,
    decodeEncodeAgree .arqDecide rfl, rfl, rfl, rfl, rfl⟩

end Sys2Proof

namespace Sys2Proof.Machine

/-- The layout row belongs to the wire (R96), and what a port accepts belongs to that port. -/
theorem decodeOn_ne_fcfWord {p : Port} (hp : p ≠ .wire) (m : List Byte) (w : Half) :
    decodeOn p m ≠ .accepted (.fcfWord w) := fun h => by
  obtain ⟨_, hport, _⟩ := onlyEncodingsAreAccepted p m _ h
  exact hp hport.symm

/-- Settles O60: two bytes are a word of the layout row on the wire, and no other port accepts that row. -/
theorem fcfWordStops : Obligations.FcfWordStops :=
  ⟨fun _ _ => rfl,
    fun m w => ⟨decodeOn_ne_fcfWord (by decide) m w, decodeOn_ne_fcfWord (by decide) m w,
      decodeOn_ne_fcfWord (by decide) m w⟩,
    fun _ _ => rfl⟩

/-! ### Turns that run no operation -/

section IdleTurns

variable {s t : State} {m : List Byte} {ms : List (List Byte)} {e : DecodeError}

theorem step_of_pass (h : fetch s = .pass t) : step s = .next t := by
  simp only [step, h]

theorem State.appBusy_of_free (hfree : s.appCmd = .none) : s.appBusy = false := by simp [State.appBusy, hfree]

/-- A busy port takes nothing (R115). -/
theorem fetchCommand_of_busy (hbusy : s.appCmd ≠ .none) : fetchCommand s = .pass s := by
  have hb : s.appBusy = true := decide_eq_true hbusy
  simp only [fetchCommand, hb, if_true]

theorem fetchCommand_of_empty (hfree : s.appCmd = .none) (hm : s.io.cmdPort = []) : fetchCommand s = .pass s := by
  simp only [fetchCommand, State.appBusy_of_free hfree, Bool.false_eq_true, if_false, hm]

/-- A message that is no command is answered `E_ILLEGAL_CMD` (R115). -/
theorem fetchCommand_of_rejected (hfree : s.appCmd = .none) (hm : s.io.cmdPort = m :: ms)
    (hd : decodeOn .command m = .rejected e) : fetchCommand s = .pass ((s.setCmdPort ms).replied [0x0A]) := by
  simp only [fetchCommand, State.appBusy_of_free hfree, Bool.false_eq_true, if_false, hm, hd]
  rfl

theorem fetchEvent_of_rejected (hm : s.io.evPort = m :: ms) (hd : decodeOn .event m = .rejected e) :
    fetchEvent s = .pass (s.setEvPort ms) := by
  simp only [fetchEvent, hm, hd]

end IdleTurns

/-- Settles O6: with no turn nothing is fetched; a turn leads to its port, which presents nothing to run. -/
theorem stepWithoutInstruction : Obligations.StepWithoutInstruction := by
  intro s a rest m ms e
  refine ⟨fun hturn => ?_, fun hturn hbusy => ?_, fun hturn hfree hm => ?_, fun hturn hfree hm hd => ?_,
    fun hturn hm hd => ?_⟩
  · exact step_of_pass (by simp only [fetch, hturn])
  · exact step_of_pass ((fetch_of_turn hturn).trans (fetchCommand_of_busy hbusy))
  · exact step_of_pass ((fetch_of_turn hturn).trans (fetchCommand_of_empty hfree hm))
  · exact step_of_pass ((fetch_of_turn hturn).trans (fetchCommand_of_rejected hfree hm hd))
  · exact step_of_pass ((fetch_of_turn hturn).trans (fetchEvent_of_rejected hm hd))

end Sys2Proof.Machine

/-! ## Proofs: value types (40_value_types.md) -/

namespace Sys2Proof.Machine

/-! ### Bit fields of a word (R14) -/

theorem field_eq_extractLsb' (w : Half) (lo n : Nat) : field w lo n = w.extractLsb' lo n := by
  rw [field, BitVec.extractLsb', Nat.shiftRight_eq_div_pow]

/-- A field depends on its own bits only. -/
theorem field_congr {w w' : Half} {lo n : Nat} (h : ∀ i < n, w.getLsbD (lo + i) = w'.getLsbD (lo + i)) :
    field w lo n = field w' lo n := by
  rw [field_eq_extractLsb', field_eq_extractLsb']
  apply BitVec.eq_of_getLsbD_eq
  intro i hi
  simp only [BitVec.getLsbD_extractLsb', h i hi]

theorem field_eq_of_toNat {w : Half} {lo n : Nat} {x : BitVec n} (h : w.toNat / 2 ^ lo % 2 ^ n = x.toNat) :
    field w lo n = x :=
  BitVec.eq_of_toNat_eq ((toNat_field w lo n).trans h)

/-- A field sent as a wider value (R134). -/
theorem setWidth_field (w : Half) (lo n m : Nat) :
    (field w lo n).setWidth m = BitVec.ofNat m (w.toNat / 2 ^ lo % 2 ^ n) := by
  rw [← BitVec.ofNat_toNat, toNat_field]

/-! ### The FCF word as a weighted sum of its fields (R95, R135) -/

/-- The sum that `packFcf` takes as a word. -/
def Fcf.weightedSum (f : Fcf) : Nat :=
  f.frameType.toNat + 8 * f.securityEnabled.toNat + 16 * f.framePending.toNat
    + 32 * f.ackRequest.toNat + 64 * f.panIdCompression.toNat + 128 * f.reserved.toNat
    + 256 * f.sequenceNumberSuppression.toNat + 512 * f.informationElementsPresent.toNat
    + 1024 * f.destAddrMode.toNat + 4096 * f.frameVersion.toNat + 16384 * f.srcAddrMode.toNat

theorem Fcf.weightedSum_lt (f : Fcf) : f.weightedSum < 2 ^ 16 := by
  unfold Fcf.weightedSum
  omega

/-- The sum fits a word, so that packing loses nothing. -/
theorem toNat_packFcf (f : Fcf) : (packFcf f).toNat = f.weightedSum :=
  (BitVec.toNat_ofNat ..).trans (Nat.mod_eq_of_lt f.weightedSum_lt)

/-- A word is the sum of its fields, each at its weight. -/
theorem weightedSum_unpackFcf (w : Half) : (unpackFcf w).weightedSum = w.toNat := by
  have hw := w.isLt
  simp only [Fcf.weightedSum, unpackFcf, toNat_field]
  omega

theorem packFcf_unpackFcf (w : Half) : packFcf (unpackFcf w) = w :=
  BitVec.eq_of_toNat_eq ((toNat_packFcf _).trans (weightedSum_unpackFcf w))

/-- Below each field the sum of the smaller ones stays under its weight, so that the field is read back. -/
theorem unpackFcf_packFcf (f : Fcf) : unpackFcf (packFcf f) = f := by
  obtain ⟨frameType, security, pending, ack, pan, reserved, seq, elements, dest, version, src⟩ := f
  unfold unpackFcf
  rw [Fcf.mk.injEq]
  refine ⟨?_, ?_, ?_, ?_, ?_, ?_, ?_, ?_, ?_, ?_, ?_⟩ <;>
    exact field_eq_of_toNat (by simp only [toNat_packFcf, Fcf.weightedSum]; omega)

/-! ### The bits the header length depends on (R137, R151) -/

/-- The header length reads two flags and two address modes. -/
theorem hdrLen_congr {w w' : Half} (hseq : seqSuppressed w = seqSuppressed w')
    (hpan : panCompressed w = panCompressed w') (hdest : destModeOf w = destModeOf w')
    (hsrc : srcModeOf w = srcModeOf w') : hdrLen w = hdrLen w' := by
  simp only [hdrLen, hseq, hpan, hdest, hsrc]

/-- A field of two bits depends on these two. -/
theorem field_two_congr {w w' : Half} {lo : Nat} (h0 : w.getLsbD lo = w'.getLsbD lo)
    (h1 : w.getLsbD (lo + 1) = w'.getLsbD (lo + 1)) : field w lo 2 = field w' lo 2 :=
  field_congr fun
    | 0, _ => h0
    | 1, _ => h1

/-- Settles O14: the weighted sum has one digit per field, and each part the header length reads has its bits listed. -/
theorem fcfLaws : Obligations.FcfLaws := by
  refine ⟨packFcf_unpackFcf, unpackFcf_packFcf, fun w w' h => ?_⟩
  have hdest : destModeOf w = destModeOf w' := field_two_congr (h 10 (by decide)) (h 11 (by decide))
  have hsrc : srcModeOf w = srcModeOf w' := field_two_congr (h 14 (by decide)) (h 15 (by decide))
  exact hdrLen_congr (h 8 (by decide)) (h 6 (by decide)) hdest hsrc

/-! ### The value-type commands on a free command port (R132 to R135) -/

section FreePort

variable {s : State} (hfree : s.appCmd = .none)

include hfree

theorem exec_addrLen_of_le {b : Byte} (hb : b.toNat ≤ 3) :
    exec (.addrLen b) s = .next (s.replied [0x00, BitVec.ofNat 8 (addrLen (b.setWidth 2))]) :=
  (whenFree_of_idle s _ hfree).trans (if_neg (Nat.not_lt.mpr hb))

theorem exec_addrLen_of_gt {b : Byte} (hb : 3 < b.toNat) : exec (.addrLen b) s = .next (s.replied [0x0A]) :=
  (whenFree_of_idle s _ hfree).trans (if_pos hb)

theorem exec_addrMake_of_gt {mode : Byte} (hmode : 3 < mode.toNat) (b : List Byte) :
    exec (.addrMake mode b) s = .next (s.replied [0x0A]) :=
  (whenFree_of_idle s _ hfree).trans (if_pos hmode)

theorem exec_addrMake_reserved (b : List Byte) : exec (.addrMake 1 b) s = .next (s.replied [0x09]) :=
  whenFree_of_idle s _ hfree

/-- A mode other than Reserved keeps the bytes its length asks for (R133). -/
theorem exec_addrMake_of_le {mode : Byte} (hmode : mode.toNat ≤ 3) (hres : mode ≠ 1) (b : List Byte) :
    exec (.addrMake mode b) s
      = .next (s.replied (0x00 :: mode :: b.take (addrLen (mode.setWidth 2)))) :=
  (whenFree_of_idle s _ hfree).trans ((if_neg (Nat.not_lt.mpr hmode)).trans (if_neg hres))

theorem exec_fcfUnpack (w : Half) : exec (.fcfUnpack w) s = .next (s.replied (0x00 :: (unpackFcf w).bytes)) :=
  whenFree_of_idle s _ hfree

theorem exec_fcfPack_of_inRange {f : FcfBytes} (hf : fcfInRange f = true) :
    exec (.fcfPack f) s = .next (s.replied (0x00 :: halfBytes (packFcf (fcfOfBytes f)))) :=
  (whenFree_of_idle s _ hfree).trans (if_pos hf)

theorem exec_fcfPack_of_not_inRange {f : FcfBytes} (hf : ¬ fcfInRange f = true) :
    exec (.fcfPack f) s = .next (s.replied [0x0A]) :=
  (whenFree_of_idle s _ hfree).trans (if_neg hf)

end FreePort

/-! ### Address modes (R132, R133) -/

/-- Settles O10: a byte up to 3 is a mode and answered by its length, a greater one is illegal. -/
theorem addrLenResult : Obligations.AddrLenResult :=
  ⟨fun b => decodeEncodeAgree (.addrLen b) rfl, fun _ hfree =>
    ⟨exec_addrLen_of_le hfree (by decide), exec_addrLen_of_le hfree (by decide),
      exec_addrLen_of_le hfree (by decide), exec_addrLen_of_le hfree (by decide),
      fun _ => exec_addrLen_of_gt hfree⟩⟩

/-- Settles O11: the leading bytes of each mode; an Extended address takes all eight. -/
theorem addrMakeResult : Obligations.AddrMakeResult := by
  refine ⟨fun mode b0 b1 b2 b3 b4 b5 b6 b7 => decodeEncodeAgree (.addrMake mode [b0, b1, b2, b3, b4, b5, b6, b7]) rfl,
    fun s b hfree hlen => ⟨?_, ?_, ?_, ?_, ?_⟩⟩
  · exact exec_addrMake_of_le hfree (by decide) (by decide) b
  · exact exec_addrMake_reserved hfree b
  · exact exec_addrMake_of_le hfree (by decide) (by decide) b
  · have hall : b.take 8 = b := List.take_of_length_le hlen.le
    have hext := exec_addrMake_of_le hfree (mode := 3) (by decide) (by decide) b
    rwa [show addrLen ((3 : Byte).setWidth 2) = 8 from rfl, hall] at hext
  · exact fun mode hmode => exec_addrMake_of_gt hfree hmode b

/-! ### FCF words and their fields (R134, R135) -/

/-- Settles O12: each field is sent as the byte of its value. -/
theorem fcfUnpackResult : Obligations.FcfUnpackResult := by
  refine ⟨fun b0 b1 => ?_, fun s w hfree => ?_⟩
  · have hread := decodeEncodeAgree (.fcfUnpack (le16 b0 b1)) rfl
    rwa [encode, halfBytes_le16] at hread
  · rw [exec_fcfUnpack hfree]
    simp only [Fcf.bytes, unpackFcf, setWidth_field, List.map]

/-- The operand bytes that are field values (R135). -/
theorem fcfInRange_iff (f : FcfBytes) : fcfInRange f = true ↔
    f.frameType.toNat < 8 ∧ f.securityEnabled.toNat < 2 ∧ f.framePending.toNat < 2
      ∧ f.ackRequest.toNat < 2 ∧ f.panIdCompression.toNat < 2 ∧ f.reserved.toNat < 2
      ∧ f.sequenceNumberSuppression.toNat < 2 ∧ f.informationElementsPresent.toNat < 2
      ∧ f.destAddrMode.toNat < 4 ∧ f.frameVersion.toNat < 4 ∧ f.srcAddrMode.toNat < 4 := by
  simp only [fcfInRange, Bool.and_eq_true, decide_eq_true_eq, and_assoc]

/-- Operand bytes in range are their field values, so that the word is the sum of the bytes (R135). -/
theorem toNat_packFcf_fcfOfBytes {f : FcfBytes} (hf : fcfInRange f = true) :
    (packFcf (fcfOfBytes f)).toNat = f.frameType.toNat + 8 * f.securityEnabled.toNat + 16 * f.framePending.toNat
      + 32 * f.ackRequest.toNat + 64 * f.panIdCompression.toNat + 128 * f.reserved.toNat
      + 256 * f.sequenceNumberSuppression.toNat + 512 * f.informationElementsPresent.toNat
      + 1024 * f.destAddrMode.toNat + 4096 * f.frameVersion.toNat + 16384 * f.srcAddrMode.toNat := by
  have hrange := (fcfInRange_iff f).mp hf
  simp only [toNat_packFcf, Fcf.weightedSum, fcfOfBytes, BitVec.toNat_setWidth]
  omega

theorem halfBytes_of_toNat {w : Half} {n : Nat} (h : w.toNat = n) :
    halfBytes w = [BitVec.ofNat 8 (n % 256), BitVec.ofNat 8 (n / 256)] := by
  subst h
  rfl

/-- Settles O13: fields in range are packed into their sum, any other operand is illegal. -/
theorem fcfPackResult : Obligations.FcfPackResult := by
  refine ⟨fun f0 f1 f2 f3 f4 f5 f6 f7 f8 f9 f10 =>
    decodeEncodeAgree (.fcfPack ⟨f0, f1, f2, f3, f4, f5, f6, f7, f8, f9, f10⟩) rfl,
    fun s f hfree => ⟨fun hlegal => ?_, fun hlegal => ?_⟩⟩
  · have hf := (fcfInRange_iff f).mpr hlegal
    rw [exec_fcfPack_of_inRange hfree hf, halfBytes_of_toNat (toNat_packFcf_fcfOfBytes hf)]
  · exact exec_fcfPack_of_not_inRange hfree fun hf => hlegal ((fcfInRange_iff f).mp hf)

end Sys2Proof.Machine

/-! ## Proofs: the codec (41_codec.md)

What `PARSE` accepts and what `BUILD` gives are one byte sequence, `Frame.received`: `BUILD` writes 0x00 in the
terminator's place and nothing after it, `PARSE` takes any byte there and any bytes after it. -/

namespace Sys2Proof.Machine

/-! ### The header length (R151) -/

theorem addrLen_eq (m : BitVec 2) : addrLen m = if m.toNat = 2 then 2 else if m.toNat = 3 then 8 else 0 := by
  revert m
  decide

theorem toNat_destModeOf (w : Half) : (destModeOf w).toNat = w.toNat / 1024 % 4 := toNat_field w 10 2

theorem toNat_srcModeOf (w : Half) : (srcModeOf w).toNat = w.toNat / 16384 % 4 := toNat_field w 14 2

/-- Settles O15: each part the header length reads is a digit of the word; the bounds and the table are evaluated. -/
theorem headerLength : Obligations.HeaderLength := by
  refine ⟨fun w => ⟨?_, hdrLen_ge w, hdrLen_le w⟩, by decide, by decide, by decide⟩
  simp only [hdrLen, present, addrLen_eq, toNat_destModeOf, toNat_srcModeOf, seqSuppressed_eq, panCompressed_eq,
    Bool.and_eq_true, Bool.not_eq_true', decide_eq_true_eq, decide_eq_false_iff_not, Nat.mod_two_not_eq_one]

/-! ### A frame as it is received -/

/-- The wire frame of `f` with any byte in the terminator's place and any bytes after it (R153, R154). -/
def Frame.received (f : Frame) (term : Byte) (excess : List Byte) : List Byte :=
  BitVec.ofNat 8 (frameTotal f) :: (headerBytes f ++ f.payload ++ term :: excess)

/-- The frames `PARSE` can give: addresses as the FCF calls for, R155's values where a field is absent, and a
length that byte 0 can declare. -/
structure Frame.Parsed (f : Frame) : Prop where
  modes : f.modesAgree = true
  wf : f.Wf
  canonical : canon f = f
  fits : frameTotal f ≤ 255

theorem wireBytes_eq_received (f : Frame) : wireBytes f = f.received 0x00 [] := rfl

section Received

variable {f : Frame} (term : Byte) (excess : List Byte)

theorem Frame.toNat_received_zero (hfits : frameTotal f ≤ 255) :
    ((f.received term excess).getD 0 0).toNat = frameTotal f :=
  (BitVec.toNat_ofNat ..).trans (Nat.mod_eq_of_lt (by omega))

theorem Frame.le16_received : le16 ((f.received term excess).getD 1 0) ((f.received term excess).getD 2 0) = f.fcf :=
  le16_lo8_hi8 f.fcf

theorem Frame.length_header_payload (hm : f.modesAgree = true) (hw : f.Wf) :
    (headerBytes f ++ f.payload).length = frameTotal f - 2 := by
  rw [List.length_append, length_headerBytes f hm hw]
  unfold frameTotal
  omega

theorem Frame.length_received (hm : f.modesAgree = true) (hw : f.Wf) :
    (f.received term excess).length = frameTotal f + excess.length := by
  simp only [Frame.received, List.length_cons, List.length_append, length_headerBytes f hm hw, frameTotal]
  omega

/-- The bytes before the terminator's place. -/
theorem Frame.take_received (hm : f.modesAgree = true) (hw : f.Wf) :
    (f.received term excess).take (frameTotal f - 1)
      = BitVec.ofNat 8 (frameTotal f) :: (headerBytes f ++ f.payload) := by
  have hlen : frameTotal f - 1 = frameTotal f - 2 + 1 := by unfold frameTotal; omega
  rw [hlen, Frame.received, List.take_succ_cons, List.take_left' (f.length_header_payload hm hw)]

theorem Frame.drop_received (hm : f.modesAgree = true) (hw : f.Wf) :
    (f.received term excess).drop (frameTotal f - 1) = term :: excess := by
  have hlen : frameTotal f - 1 = frameTotal f - 2 + 1 := by unfold frameTotal; omega
  rw [hlen, Frame.received, List.drop_succ_cons, List.drop_left' (f.length_header_payload hm hw)]

end Received

/-! ### `PARSE` (R152) -/

theorem parse_of_zero {raw : List Byte} (h : (raw.getD 0 0).toNat = 0) : parse raw = none := by
  cases raw with
  | nil => rfl
  | cons len fields => exact if_pos (.inl h)

/-- Where as many bytes are supplied as declared, the fields between the length byte and the terminator are read. -/
theorem parse_of_declared {raw : List Byte} (hpos : (raw.getD 0 0).toNat ≠ 0)
    (hlen : (raw.getD 0 0).toNat ≤ raw.length) :
    parse raw = parseFields (raw.tail.take ((raw.getD 0 0).toNat - 2)) := by
  cases raw with
  | nil => exact absurd rfl hpos
  | cons len fields => exact if_neg (by simpa using And.intro hpos hlen)

/-- A received frame is read whole, whatever the terminator and the excess bytes. -/
theorem parse_received {f : Frame} (hm : f.modesAgree = true) (hw : f.Wf) (hfits : frameTotal f ≤ 255) (term : Byte)
    (excess : List Byte) : parse (f.received term excess) = some (canon f) := by
  have htotal := f.toNat_received_zero term excess hfits
  have hpos : frameTotal f ≠ 0 := by unfold frameTotal; omega
  rw [parse_of_declared (by rwa [htotal]) (by rw [htotal, f.length_received _ _ hm hw]; omega), htotal,
    Frame.received, List.tail_cons, List.take_left' (f.length_header_payload hm hw), parseFields_headerBytes f hm hw]

/-- `PARSE` gives a frame exactly where the bytes are that frame received. -/
theorem parse_eq_some_iff {raw : List Byte} {f : Frame} :
    parse raw = some f ↔ f.Parsed ∧ ∃ term excess, raw = f.received term excess := by
  constructor
  · intro h
    obtain ⟨len, rest, rfl, hlen, hfields, htotal⟩ := parse_eq_some raw f h
    obtain ⟨hbytes, hm, hw, hcanon⟩ := parseFields_eq_some _ _ hfields
    refine ⟨⟨hm, hw, hcanon, by omega⟩, ?_⟩
    rw [htotal] at hbytes
    have hmore : rest.drop (frameTotal f - 2) ≠ [] := by
      have htwo : 2 ≤ frameTotal f := by unfold frameTotal; omega
      rw [List.length_cons] at hlen
      exact List.ne_nil_of_length_pos (by rw [List.length_drop]; omega)
    obtain ⟨term, excess, hrest⟩ := List.exists_cons_of_ne_nil hmore
    refine ⟨term, excess, ?_⟩
    rw [Frame.received, ← hbytes, ← hrest, List.take_append_drop, ← htotal, BitVec.ofNat_toNat, BitVec.setWidth_eq]
  · rintro ⟨hf, term, excess, rfl⟩
    rw [parse_received hf.modes hf.wf hf.fits, hf.canonical]

/-! ### The round trips (R164) -/

/-- Settles O19: both directions go over the frame as received. -/
theorem codecRoundTrip : Obligations.CodecRoundTrip := by
  refine ⟨fun f cap out hw hbuild => ?_, fun raw f hparse => ?_⟩
  · obtain ⟨hm, hfits, -, rfl⟩ := (build_eq_ok f cap out).mp hbuild
    rw [wireBytes_eq_received, parse_received hm hw hfits]
  · obtain ⟨hf, term, excess, rfl⟩ := parse_eq_some_iff.mp hparse
    refine (build_eq_ok ..).mpr ⟨hf.modes, hf.fits, hf.fits, ?_⟩
    rw [f.toNat_received_zero term excess hf.fits, f.take_received term excess hf.modes hf.wf, wireBytes,
      List.cons_append]

/-! ### What `PARSE` accepts (R153, R154, R158) -/

/-- With a header's worth of bytes between the length byte and the terminator, a frame is read. -/
theorem parse_isSome_of_le {raw : List Byte}
    (hhdr : 2 + hdrLen (le16 (raw.getD 1 0) (raw.getD 2 0)) ≤ (raw.getD 0 0).toNat)
    (hlen : (raw.getD 0 0).toNat ≤ raw.length) : (parse raw).isSome = true := by
  have hge := hdrLen_ge (le16 (raw.getD 1 0) (raw.getD 2 0))
  rw [parse_of_declared (by omega) hlen]
  match raw with
  | len :: b0 :: b1 :: rest =>
    change 2 + hdrLen (le16 b0 b1) ≤ len.toNat at hhdr
    change 2 ≤ hdrLen (le16 b0 b1) at hge
    change len.toNat ≤ (len :: b0 :: b1 :: rest).length at hlen
    obtain ⟨k, hk⟩ : ∃ k, len.toNat = k + 4 := ⟨len.toNat - 4, by omega⟩
    rw [hk, List.length_cons, List.length_cons, List.length_cons] at hlen
    change (parseFields ((b0 :: b1 :: rest).take (len.toNat - 2))).isSome = true
    rw [hk]
    exact parseFields_isSome b0 b1 (rest.take k) (by rw [List.length_take]; omega)
  | [] | [_] | [_, _] => simp only [List.length_cons, List.length_nil] at hlen; omega

/-- `PARSE` reads the length byte and the bytes up to the terminator's place only. -/
theorem parse_congr {raw raw' : List Byte} (hzero : raw.getD 0 0 = raw'.getD 0 0)
    (hlen : (raw.getD 0 0).toNat ≤ raw.length) (hlen' : (raw.getD 0 0).toNat ≤ raw'.length)
    (hbytes : ∀ x, 1 ≤ x → x + 1 < (raw.getD 0 0).toNat → raw.getD x 0 = raw'.getD x 0) :
    parse raw = parse raw' := by
  by_cases hpos : (raw.getD 0 0).toNat = 0
  · rw [parse_of_zero hpos, parse_of_zero (hzero ▸ hpos)]
  · rw [parse_of_declared hpos hlen, parse_of_declared (hzero ▸ hpos) (hzero ▸ hlen'), ← hzero]
    congr 1
    apply List.ext_getElem
    · simp only [List.length_take, List.length_tail]
      omega
    · intro i hi hi'
      simp only [List.length_take, List.length_tail] at hi hi'
      have hbyte := hbytes (i + 1) (by omega) (by omega)
      rw [List.getD_eq_getElem _ _ (by omega), List.getD_eq_getElem _ _ (by omega)] at hbyte
      simpa only [List.getElem_take, List.getElem_tail] using hbyte

/-- Settles O16: a frame that was read has its header in the declared length; the rest is `parse_congr`. -/
theorem parseAcceptsExactly : Obligations.ParseAcceptsExactly := by
  refine ⟨fun raw => ⟨fun h => ?_, fun ⟨hhdr, hlen⟩ => parse_isSome_of_le hhdr hlen⟩,
    fun _ _ hzero hlen hlen' hbytes => parse_congr hzero hlen hlen' hbytes⟩
  obtain ⟨f, hparse⟩ := Option.isSome_iff_exists.mp h
  obtain ⟨hf, term, excess, rfl⟩ := parse_eq_some_iff.mp hparse
  rw [f.le16_received, f.toNat_received_zero term excess hf.fits, f.length_received _ _ hf.modes hf.wf]
  exact ⟨Nat.le_add_right .., Nat.le_add_right ..⟩

/-! ### The parts of a received frame (R104) -/

/-- The sequence number where it is not suppressed. -/
def Frame.seqBytes (f : Frame) : List Byte := if seqSuppressed f.fcf then [] else [f.seq]

/-- The destination PAN ID where a destination address is present. -/
def Frame.destPanBytes (f : Frame) : List Byte := if present (destModeOf f.fcf) then halfBytes f.destPan else []

/-- The source PAN ID where a source address is present and the PAN ID not compressed. -/
def Frame.srcPanBytes (f : Frame) : List Byte :=
  if present (srcModeOf f.fcf) && !panCompressed f.fcf then halfBytes f.srcPan else []

theorem headerBytes_eq (f : Frame) : headerBytes f
    = halfBytes f.fcf ++ f.seqBytes ++ f.destPanBytes ++ f.dest.bytes ++ f.srcPanBytes ++ f.src.bytes := rfl

theorem Frame.length_seqBytes (f : Frame) : f.seqBytes.length = if seqSuppressed f.fcf then 0 else 1 := by
  unfold Frame.seqBytes
  split <;> rfl

theorem Frame.length_destPanBytes (f : Frame) :
    f.destPanBytes.length = if present (destModeOf f.fcf) then 2 else 0 := by
  unfold Frame.destPanBytes
  split <;> rfl

theorem Frame.srcPanBytes_eq (f : Frame) : f.srcPanBytes
    = if present (srcModeOf f.fcf) ∧ panCompressed f.fcf = false then halfBytes f.srcPan else [] := by
  simp only [Frame.srcPanBytes, Bool.and_eq_true, Bool.not_eq_true']

theorem Frame.length_srcPanBytes (f : Frame) :
    f.srcPanBytes.length = if present (srcModeOf f.fcf) ∧ panCompressed f.fcf = false then 2 else 0 := by
  rw [Frame.srcPanBytes_eq]
  split <;> rfl

theorem Frame.modes_of_agree {f : Frame} (hm : f.modesAgree = true) :
    f.dest.mode = modeOf (destModeOf f.fcf) ∧ f.src.mode = modeOf (srcModeOf f.fcf) := by
  simpa only [Frame.modesAgree, Bool.and_eq_true, decide_eq_true_eq] using hm

/-- An address as the FCF calls for has the length the FCF calls for (R21, R130). -/
theorem Address.length_bytes {a : Address} {m : BitVec 2} (hw : a.Wf) (hm : a.mode = modeOf m) :
    a.bytes.length = addrLen m := by
  rw [hw, hm, len_modeOf]

namespace Frame.Parsed

variable {f : Frame} (hf : f.Parsed)

include hf

theorem length_dest : f.dest.bytes.length = addrLen (destModeOf f.fcf) :=
  Address.length_bytes hf.wf.1 (Frame.modes_of_agree hf.modes).1

theorem length_src : f.src.bytes.length = addrLen (srcModeOf f.fcf) :=
  Address.length_bytes hf.wf.2 (Frame.modes_of_agree hf.modes).2

theorem seq_of_suppressed (h : seqSuppressed f.fcf = true) : f.seq = 0 := by
  have hseq := congrArg Frame.seq hf.canonical
  simpa only [canon, h, if_true] using hseq.symm

theorem destPan_of_absent (h : present (destModeOf f.fcf) = false) : f.destPan = 0 := by
  have hpan := congrArg Frame.destPan hf.canonical
  simpa only [canon, h, Bool.false_eq_true, if_false] using hpan.symm

theorem srcPan_of_absent (h : present (srcModeOf f.fcf) = false) : f.srcPan = 0 := by
  have hpan := congrArg Frame.srcPan hf.canonical
  simpa only [canon, h, Bool.false_eq_true, if_false] using hpan.symm

/-- Compression copies the destination's PAN ID (R157). -/
theorem srcPan_of_compressed (hp : present (srcModeOf f.fcf) = true) (hc : panCompressed f.fcf = true) :
    f.srcPan = f.destPan := by
  have hdest := congrArg Frame.destPan hf.canonical
  have hpan := congrArg Frame.srcPan hf.canonical
  simp only [canon] at hdest
  simpa only [canon, hp, hc, if_true, hdest] using hpan.symm

end Frame.Parsed

/-! ### Taking a part off the front -/

theorem drop_add_of_drop_eq_append {l a b : List Byte} {n k : Nat} (h : l.drop n = a ++ b) (hk : a.length = k) :
    l.drop (n + k) = b := by
  rw [← List.drop_drop, h, List.drop_left' hk]

theorem take_drop_of_drop_eq_append {l a b : List Byte} {n k : Nat} (h : l.drop n = a ++ b) (hk : a.length = k) :
    (l.drop n).take k = a := by
  rw [h, List.take_left' hk]

theorem getD_of_drop_eq_cons {l r : List Byte} {n : Nat} {b d : Byte} (h : l.drop n = b :: r) : l.getD n d = b := by
  have hget : (l.drop n)[0]? = some b := by rw [h]; rfl
  rw [List.getElem?_drop, Nat.add_zero] at hget
  rw [List.getD_eq_getElem?_getD, hget, Option.getD_some]

/-- A little-endian word stands at `n` and the place after it. -/
theorem le16_of_drop_eq_halfBytes {l r : List Byte} {n n' : Nat} {p : Half} (h : l.drop n = halfBytes p ++ r)
    (hn : n' = n + 1) : le16 (l.getD n 0) (l.getD n' 0) = p := by
  have hhi : l.drop (n + 1) = hi8 p :: r := drop_add_of_drop_eq_append (a := [lo8 p]) h rfl
  rw [hn, getD_of_drop_eq_cons (b := lo8 p) h, getD_of_drop_eq_cons hhi, le16_lo8_hi8]

/-! ### Each field from the place its part stands at (R155 to R157) -/

theorem Address.eq_of_drop {a : Address} {m : BitVec 2} {l r : List Byte} {n : Nat} (hm : a.mode = modeOf m)
    (hlen : a.bytes.length = addrLen m) (h : l.drop n = a.bytes ++ r) :
    a = ⟨modeOf m, (l.drop n).take (addrLen m)⟩ := by
  rw [take_drop_of_drop_eq_append h hlen, ← hm]

namespace Frame.Parsed

variable {f : Frame} (hf : f.Parsed) {l r : List Byte} {n n' : Nat}

include hf

theorem seq_eq_of_drop (h : l.drop n = f.seqBytes ++ r) :
    f.seq = if seqSuppressed f.fcf then 0 else l.getD n 0 := by
  split
  · exact hf.seq_of_suppressed ‹_›
  · rename_i hs
    rw [Frame.seqBytes, if_neg hs] at h
    exact (getD_of_drop_eq_cons h).symm

theorem destPan_eq_of_drop (h : l.drop n = f.destPanBytes ++ r) (hn : n' = n + 1) :
    f.destPan = if present (destModeOf f.fcf) then le16 (l.getD n 0) (l.getD n' 0) else 0 := by
  split
  · rename_i hp
    rw [Frame.destPanBytes, if_pos hp] at h
    exact (le16_of_drop_eq_halfBytes h hn).symm
  · exact hf.destPan_of_absent (Bool.eq_false_iff.mpr ‹_›)

theorem srcPan_eq_of_drop (h : l.drop n = f.srcPanBytes ++ r) (hn : n' = n + 1) :
    f.srcPan = if present (srcModeOf f.fcf) then
        if panCompressed f.fcf then f.destPan else le16 (l.getD n 0) (l.getD n' 0)
      else 0 := by
  split
  · rename_i hp
    split
    · exact hf.srcPan_of_compressed hp ‹_›
    · rename_i hc
      rw [Frame.srcPanBytes_eq, if_pos ⟨hp, Bool.eq_false_iff.mpr hc⟩] at h
      exact (le16_of_drop_eq_halfBytes h hn).symm
  · exact hf.srcPan_of_absent (Bool.eq_false_iff.mpr ‹_›)

end Frame.Parsed

/-- Settles O18: the parts are taken off one after another, each at the sum of the lengths before it. -/
theorem parseFieldPlaces : Obligations.ParseFieldPlaces := by
  intro raw f hparse
  obtain ⟨hf, term, excess, hraw⟩ := parse_eq_some_iff.mp hparse
  obtain ⟨hmd, hms⟩ := Frame.modes_of_agree hf.modes
  have htotal : (raw.getD 0 0).toNat = frameTotal f := hraw ▸ f.toNat_received_zero term excess hf.fits
  have hword : le16 (raw.getD 1 0) (raw.getD 2 0) = f.fcf := hraw ▸ f.le16_received term excess
  have hseq : raw.drop 3 = f.seqBytes ++ (f.destPanBytes ++ (f.dest.bytes ++ (f.srcPanBytes ++ (f.src.bytes
      ++ (f.payload ++ term :: excess))))) := by
    rw [hraw, Frame.received, headerBytes_eq]
    simp only [List.append_assoc]
    rfl
  have hdestPan := drop_add_of_drop_eq_append hseq f.length_seqBytes
  have hdest := drop_add_of_drop_eq_append hdestPan f.length_destPanBytes
  have hsrcPan := drop_add_of_drop_eq_append hdest hf.length_dest
  have hsrc := drop_add_of_drop_eq_append hsrcPan f.length_srcPanBytes
  have hpayload : raw.drop (1 + hdrLen f.fcf) = f.payload ++ term :: excess := by
    rw [hraw, Frame.received, Nat.add_comm, List.drop_succ_cons, List.append_assoc,
      List.drop_left' (length_headerBytes f hf.modes hf.wf)]
  have hlen : f.payload.length = frameTotal f - 2 - hdrLen f.fcf := by unfold frameTotal; omega
  simp only [hword, htotal]
  exact ⟨trivial, hf.seq_eq_of_drop hseq, hf.destPan_eq_of_drop hdestPan (Nat.add_right_comm 3 1 _),
    Address.eq_of_drop hmd hf.length_dest hdest, hf.srcPan_eq_of_drop hsrcPan (by omega),
    Address.eq_of_drop hms hf.length_src hsrc, (take_drop_of_drop_eq_append hpayload hlen).symm,
    hf.length_dest, hf.length_src, hlen⟩

/-! ### `PARSE` as a command (R152, R114) -/

section ParseCommand

variable {s : State} {raw : List Byte} (hfree : s.appCmd = .none)

include hfree

theorem exec_parse_of_none (h : parse raw = none) : exec (.parse raw) s = .next (s.replied [0x01]) := by
  refine (whenFree_of_idle s _ hfree).trans ?_
  rw [h]
  rfl

theorem exec_parse_of_some {f : Frame} (h : parse raw = some f) :
    exec (.parse raw) s = .next (s.replied (0x00 :: frameResult s.io.cmdOut.length f)) := by
  refine (whenFree_of_idle s _ hfree).trans ?_
  rw [h]
  rfl

end ParseCommand

/-- An address field of a response is the address's bytes, filled up to eight. -/
theorem paddedAddr_eq_append {a : Address} (pad : Nat → Byte) (h : a.bytes.length ≤ 8) :
    ∃ fill, a.bytes.length + fill.length = 8 ∧ paddedAddr a pad = a.bytes ++ fill :=
  ⟨_, by rw [List.length_map, List.length_range]; omega, rfl⟩

/-- Settles O17: a parsed frame's addresses leave room in their fields. -/
theorem parseCommandAnswers : Obligations.ParseCommandAnswers := by
  intro s raw hfree
  refine ⟨exec_parse_of_none hfree, fun f hparse => ?_⟩
  obtain ⟨hf, -⟩ := parse_eq_some_iff.mp hparse
  obtain ⟨padDest, hdest, hdestField⟩ :=
    paddedAddr_eq_append (Config.addrPad s.io.cmdOut.length) (hf.length_dest.trans_le (addrLen_le _))
  obtain ⟨padSrc, hsrc, hsrcField⟩ :=
    paddedAddr_eq_append (fun i => Config.addrPad s.io.cmdOut.length (8 + i))
      (hf.length_src.trans_le (addrLen_le _))
  refine ⟨padDest, padSrc, hdest, hsrc, ?_⟩
  rw [exec_parse_of_some hfree hparse, frameResult, hdestField, hsrcField]
  simp only [halfBytes, List.append_assoc, List.cons_append, List.nil_append]

/-! ### `BUILD` (R160 to R163) -/

theorem build_of_modes_ne {f : Frame} (cap : Nat) (h : f.modesAgree = false) : build f cap = .error .refused := by
  simp only [build, h, Bool.not_false, if_true]

theorem build_of_too_long {f : Frame} {cap : Nat} (hm : f.modesAgree = true)
    (h : 255 < frameTotal f ∨ cap < frameTotal f) : build f cap = .error .buildOverflow := by
  simp only [build, hm, Bool.not_true, Bool.false_eq_true, if_false, if_pos h]

section BuildCommand

variable {s : State} {cap fcf : Half} {seq : Byte} {destPan srcPan : Half} {destAddr srcAddr payload : List Byte}

/-- The operands of `BUILD` take the modes from the FCF (R113, R160). -/
theorem operandFrame_modesAgree :
    (operandFrame fcf seq destPan srcPan destAddr srcAddr payload).modesAgree = true := by
  simp only [Frame.modesAgree, operandFrame, addressOf, decide_true, Bool.and_self]

theorem operandFrame_wf (hdest : destAddr.length = 8) (hsrc : srcAddr.length = 8) :
    (operandFrame fcf seq destPan srcPan destAddr srcAddr payload).Wf :=
  ⟨addressOf_wf _ _ hdest.ge, addressOf_wf _ _ hsrc.ge⟩

/-- The header of the operands' frame, field by field (R161). -/
theorem headerBytes_operandFrame : headerBytes (operandFrame fcf seq destPan srcPan destAddr srcAddr payload)
    = [lo8 fcf, hi8 fcf] ++ ((if fcf.getLsbD 8 then [] else [seq])
      ++ (if present (destModeOf fcf) then [lo8 destPan, hi8 destPan] else [])
      ++ destAddr.take (addrLen (destModeOf fcf))
      ++ (if present (srcModeOf fcf) ∧ fcf.getLsbD 6 = false then [lo8 srcPan, hi8 srcPan] else [])
      ++ srcAddr.take (addrLen (srcModeOf fcf))) := by
  rw [headerBytes_eq, Frame.srcPanBytes_eq]
  rfl

variable (hfree : s.appCmd = .none)

include hfree

theorem exec_build_of_error {e : Status}
    (h : build (operandFrame fcf seq destPan srcPan destAddr srcAddr payload) cap.toNat = .error e) :
    exec (.build cap fcf seq destPan srcPan destAddr srcAddr payload) s = .next (s.replied [e.code]) := by
  refine (whenFree_of_idle s _ hfree).trans ?_
  rw [h]
  rfl

theorem exec_build_of_ok {out : List Byte}
    (h : build (operandFrame fcf seq destPan srcPan destAddr srcAddr payload) cap.toNat = .ok out) :
    exec (.build cap fcf seq destPan srcPan destAddr srcAddr payload) s
      = .next (s.replied (0x00 :: countedBytes out)) := by
  refine (whenFree_of_idle s _ hfree).trans ?_
  rw [h]
  rfl

end BuildCommand

/-- A length that one byte holds, as the `u16` before the bytes. -/
theorem countedBytes_of_length {bs : List Byte} {n : Nat} (h : bs.length = n) (hn : n ≤ 255) :
    countedBytes bs = [BitVec.ofNat 8 n, 0x00] ++ bs := by
  have hhi : n / 256 = 0 := by omega
  rw [countedBytes, h, leBytes_two, hhi]
  rfl

/-- Settles O20: the operands' frame has the FCF's modes, so that its size alone decides. -/
theorem buildResult : Obligations.BuildResult := by
  refine ⟨fun s cap fcf seq destPan srcPan destAddr srcAddr payload hfree hdest hsrc _ => ⟨fun hlong => ?_,
    fun hbyte hcap => ?_⟩, fun f cap hmodes => ?_, fun f cap hmd hms hlong => ?_⟩
  · exact exec_build_of_error hfree (build_of_too_long operandFrame_modesAgree hlong)
  · rw [exec_build_of_ok hfree ((build_eq_ok ..).mpr ⟨operandFrame_modesAgree, hbyte, hcap, rfl⟩),
      countedBytes_of_length (length_wireBytes _ operandFrame_modesAgree (operandFrame_wf hdest hsrc)) hbyte]
    rw [wireBytes, headerBytes_operandFrame]
    rfl
  · refine build_of_modes_ne cap (Bool.eq_false_iff.mpr fun hm => ?_)
    obtain ⟨hmd, hms⟩ := Frame.modes_of_agree hm
    exact hmodes.elim (· hmd) (· hms)
  · exact build_of_too_long (by simp only [Frame.modesAgree, hmd, hms, decide_true, Bool.and_self]) hlong

/-! ### The shape of a built frame (R162, R165) -/

/-- Settles O21: a built frame is a received one with nothing after its terminator. -/
theorem builtFrameShape : Obligations.BuiltFrameShape := by
  intro f cap out hw hbuild
  obtain ⟨hm, hbyte, hcap, rfl⟩ := (build_eq_ok f cap out).mp hbuild
  rw [length_wireBytes f hm hw, wireBytes_eq_received]
  exact ⟨rfl, hbyte, hcap, f.toNat_received_zero 0x00 [] hbyte,
    getD_of_drop_eq_cons (f.drop_received 0x00 [] hm hw)⟩

end Sys2Proof.Machine

/-! ## Proofs: the ring buffer (42_ringbuffer.md)

The bulk form of a write and of a read is taken apart at its first byte. So every operation is a bulk one, and the
laws over any sequence of operations need to be shown for the bulk forms only. The commands are these operations on
`UB`, behind one gate. -/

namespace Sys2Proof.Machine

/-! ### A bulk write, its first byte apart (R195) -/

/-- Where a bulk store begins matters mod `C` only. -/
theorem Memory.storeRing_mod (m : Memory) (C pos : Nat) (bs : List Byte) :
    m.storeRing C (pos % C) bs = m.storeRing C pos bs := by
  induction bs generalizing m pos with
  | nil => rfl
  | cons b bs ih =>
    calc (m.write (pos % C % C) b).storeRing C (pos % C + 1) bs
      _ = (m.write (pos % C) b).storeRing C ((pos % C + 1) % C) bs := by rw [Nat.mod_mod, ih]
      _ = (m.write (pos % C) b).storeRing C (pos + 1) bs := by rw [Nat.mod_add_mod, ih]

/-- An index advanced by `k + 1` places is advanced by one place and then by `k`. -/
theorem advance_succ (C pos k : Nat) :
    (if k + 1 > 0 then (pos + (k + 1)) % C else pos) = if k > 0 then ((pos + 1) % C + k) % C else (pos + 1) % C := by
  rw [if_pos k.succ_pos]
  rcases Nat.eq_zero_or_pos k with rfl | hk
  · rfl
  · rw [if_pos hk, Nat.mod_add_mod, Nat.add_assoc, Nat.add_comm 1]

namespace RingBuffer

section Write

variable {rb : RingBuffer}

theorem accepts_of_full (hfull : rb.count = rb.cap) (n : Nat) : rb.accepts n = 0 := by
  simp [accepts, hfull]

theorem accepts_succ_of_room (hroom : rb.count < rb.cap) (b : Byte) (n : Nat) :
    rb.accepts (n + 1) = (rb.write b).accepts n + 1 := by
  rw [write_of_room rb b hroom.ne]
  simp only [accepts]
  omega

theorem writeArray_of_full (hfull : rb.count = rb.cap) (data : List Byte) : rb.writeArray data = rb := by
  simp [writeArray, accepts_of_full hfull, Memory.storeRing]

theorem writeArray_nil : rb.writeArray [] = rb := by simp [writeArray, accepts, Memory.storeRing]

/-- A bulk write is a write of the first byte and then a bulk write of the rest. -/
theorem writeArray_cons (h : rb.Wf) (b : Byte) (data : List Byte) :
    rb.writeArray (b :: data) = (rb.write b).writeArray data := by
  rcases h.count.eq_or_lt with hfull | hroom
  · rw [write_of_full rb b hfull, writeArray_of_full hfull, writeArray_of_full hfull]
  · have htail : rb.tail % rb.cap = rb.tail := Nat.mod_eq_of_lt (h.tail_lt (Nat.one_le_of_lt hroom))
    have hk := accepts_succ_of_room hroom b data.length
    rw [write_of_room rb b hroom.ne] at hk ⊢
    simp only [writeArray, List.length_cons, hk, List.take_succ_cons, Memory.storeRing, htail, Memory.storeRing_mod]
    congr 1
    · exact advance_succ _ _ _
    · omega

/-- Of the bytes offered, a buffer with room accepts the first and then what it would accept of the rest. -/
theorem take_accepts_cons (h : rb.Wf) (b : Byte) (data : List Byte) :
    (b :: data).take (rb.accepts (data.length + 1))
      = (if rb.isFull then [] else [b]) ++ data.take ((rb.write b).accepts data.length) := by
  rcases h.count.eq_or_lt with hfull | hroom
  · simp [write_of_full rb b hfull, accepts_of_full hfull, rb.isFull_iff.mpr hfull]
  · simp [accepts_succ_of_room hroom b, isFull, hroom.ne]

/-- A write that stores fewer bytes than offered has filled the buffer (R194). -/
theorem isFull_of_short_write (h : rb.Wf) {data : List Byte} (hshort : rb.accepts data.length < data.length) :
    (rb.writeArray data).isFull = true := by
  have hcount := h.count
  rw [isFull_iff, writeArray_count, writeArray_cap]
  unfold accepts at hshort ⊢
  omega

end Write

/-! ### A bulk read, its first byte apart (R195) -/

section Read

variable {rb : RingBuffer}

theorem consume_zero : rb.consume 0 = rb := by simp [consume, holds]

theorem front_zero : rb.front 0 = [] := by simp [front_eq]

theorem read_of_empty (hempty : rb.count = 0) : rb.read = rb := if_pos hempty

theorem read_of_pos (hpos : 0 < rb.count) :
    rb.read = { rb with head := (rb.head + 1) % rb.cap, count := rb.count - 1 } := if_neg hpos.ne'

theorem consume_of_empty (hempty : rb.count = 0) (n : Nat) : rb.consume n = rb := by
  have hk : rb.holds n = 0 := Nat.eq_zero_of_le_zero (hempty ▸ rb.holds_count n)
  simp [consume, hk]

/-- A bulk read is a read of one byte and then a bulk read of one byte less. -/
theorem consume_succ (n : Nat) : rb.consume (n + 1) = rb.read.consume n := by
  rcases Nat.eq_zero_or_pos rb.count with hempty | hpos
  · rw [read_of_empty hempty, consume_of_empty hempty, consume_of_empty hempty]
  · have hk : rb.holds (n + 1) = rb.read.holds n + 1 := by
      rw [read_of_pos hpos]
      simp only [holds]
      omega
    rw [read_of_pos hpos] at hk ⊢
    simp only [consume, hk]
    congr 1
    · exact advance_succ _ _ _
    · omega

/-- A bulk read returns the byte at the head, if there is one, and then what a bulk read of the rest returns. -/
theorem front_succ (h : rb.Wf) (n : Nat) :
    rb.front (n + 1) = (if rb.isEmpty then [] else [rb.headByte]) ++ rb.read.front n := by
  rw [front_eq, front_eq, content_read, headByte_eq rb h]
  have hlen := rb.length_content
  cases hc : rb.content with
  | nil => simp [isEmpty, ← hlen, hc]
  | cons b rest => simp [isEmpty, ← hlen, hc]

/-- A read splits the content into what it returns and what it leaves (R187). -/
theorem content_eq_front_append (rb : RingBuffer) (n : Nat) : rb.content = rb.front n ++ (rb.consume n).content := by
  rw [front_eq, content_consume, List.take_append_drop]

theorem headByte_of_pos (hpos : 0 < rb.count) : rb.headByte = rb.store.read rb.head := if_neg hpos.ne'

theorem content_of_pos (h : rb.Wf) (hpos : 0 < rb.count) : rb.content = rb.headByte :: rb.read.content := by
  have hfront : rb.front 1 = [rb.headByte] := by simp [front_succ h, front_zero, isEmpty, hpos.ne']
  rw [rb.content_eq_front_append 1, hfront, ← read_eq_consume]
  rfl

end Read

end RingBuffer

/-! ### Runs of operations (R194, R195) -/

section Runs

variable {t : RingTrace}

theorem RingTrace.next_write_writeArray (h : t.rb.Wf) (b : Byte) (data : List Byte) :
    (t.next (.write b)).next (.writeArray data) = t.next (.writeArray (b :: data)) := by
  simp [RingTrace.next, RingBuffer.writeArray_cons h, RingBuffer.take_accepts_cons h]

theorem RingTrace.next_read_readArray (h : t.rb.Wf) (n : Nat) :
    (t.next .read).next (.readArray n) = t.next (.readArray (n + 1)) := by
  simp [RingTrace.next, RingBuffer.consume_succ, RingBuffer.front_succ h]

theorem RingTrace.next_writeArray_nil : t.next (.writeArray []) = t := by
  simp [RingTrace.next, RingBuffer.writeArray_nil]

theorem RingTrace.next_readArray_zero : t.next (.readArray 0) = t := by
  simp [RingTrace.next, RingBuffer.consume_zero, RingBuffer.front_zero]

/-- Successive writes are one bulk write, with what it accepts (R195). -/
theorem RingTrace.foldl_writes (data : List Byte) (t : RingTrace) (h : t.rb.Wf) :
    (data.map .write).foldl RingTrace.next t = t.next (.writeArray data) := by
  induction data generalizing t with
  | nil => exact RingTrace.next_writeArray_nil.symm
  | cons b data ih => exact (ih _ (t.next_wf h (.write b))).trans (RingTrace.next_write_writeArray h b data)

/-- Successive reads are one bulk read, with what it returns (R195). -/
theorem RingTrace.foldl_reads (n : Nat) (t : RingTrace) (h : t.rb.Wf) :
    (List.replicate n .read).foldl RingTrace.next t = t.next (.readArray n) := by
  induction n generalizing t with
  | zero => exact RingTrace.next_readArray_zero.symm
  | succ n ih => exact (ih _ (t.next_wf h .read)).trans (RingTrace.next_read_readArray h n)

/-- A single write is a bulk write of one byte, as a step of a trace. -/
theorem RingTrace.next_write (h : t.rb.Wf) (b : Byte) : t.next (.write b) = t.next (.writeArray [b]) :=
  RingTrace.foldl_writes [b] t h

/-- A single read is a bulk read of one byte, as a step of a trace. -/
theorem RingTrace.next_read (h : t.rb.Wf) : t.next .read = t.next (.readArray 1) := RingTrace.foldl_reads 1 t h

/-- The invariant of a run of operations from `rb` on: what was there and what came in is what went out and what is
left, in order (R194). -/
structure RingTrace.FifoFrom (t : RingTrace) (rb : RingBuffer) : Prop where
  wf : t.rb.Wf
  cap : t.rb.cap = rb.cap
  order : rb.content ++ t.accepted = t.returned ++ t.rb.content

variable {rb : RingBuffer}

theorem RingTrace.FifoFrom.writeArray (h : t.FifoFrom rb) (data : List Byte) :
    (t.next (.writeArray data)).FifoFrom rb where
  wf := t.next_wf h.wf _
  cap := h.cap
  order := by simp only [RingTrace.next, t.rb.content_writeArray data h.wf, ← List.append_assoc, h.order]

theorem RingTrace.FifoFrom.readArray (h : t.FifoFrom rb) (n : Nat) : (t.next (.readArray n)).FifoFrom rb where
  wf := t.next_wf h.wf _
  cap := h.cap
  order := by simp only [RingTrace.next, List.append_assoc, ← t.rb.content_eq_front_append n, h.order]

theorem RingTrace.FifoFrom.next (h : t.FifoFrom rb) (c : RingCmd) : (t.next c).FifoFrom rb := by
  cases c with
  | write b => exact RingTrace.next_write h.wf b ▸ h.writeArray [b]
  | writeArray data => exact h.writeArray data
  | read => exact RingTrace.next_read h.wf ▸ h.readArray 1
  | readArray n => exact h.readArray n

theorem ringRun_fifoFrom (h : rb.Wf) (cmds : List RingCmd) : (ringRun rb cmds).FifoFrom rb :=
  List.foldlRecOn (motive := (RingTrace.FifoFrom · rb)) cmds RingTrace.next
    ⟨h, rfl, (List.append_nil _).trans (List.nil_append _).symm⟩ fun _ ht c _ => ht.next c

end Runs

/-- Settles O29: the invariant `RingTrace.FifoFrom` along the run, and a short write fills any buffer. -/
theorem ringIsFifo : Obligations.RingIsFifo := by
  intro rb cmds h
  have hrun := ringRun_fifoFrom h cmds
  exact ⟨hrun.order, hrun.wf.count_add_space, hrun.cap, fun _ => RingBuffer.isFull_of_short_write hrun.wf⟩

/-- Settles O30: from the empty trace the single forms come to one step of the bulk form. -/
theorem ringBulkIsSingles : Obligations.RingBulkIsSingles := by
  intro rb h
  refine ⟨fun data => ?_, fun n => ?_⟩
  · rw [ringRun, RingTrace.foldl_writes data _ h]
    exact ⟨rfl, rfl⟩
  · rw [ringRun, RingTrace.foldl_reads n _ h]
    exact ⟨rfl, rfl⟩

/-! ### The `RB_` commands on a free command port (R181 to R193) -/

section RingCommands

variable {s : State} (hfree : s.appCmd = .none)

include hfree

/-- The gate of R181 for a buffer other than `UB`. -/
theorem onUserRing_of_ne {rb : Byte} (hrb : rb ≠ 2) (k : Host.Outcome State Fault Refusal) :
    onUserRing rb s k = .next (s.replied [if rb = 0 ∨ rb = 1 then 0x09 else 0x0A]) := by
  rw [onUserRing, whenFree_of_idle s _ hfree]
  by_cases hlow : rb = 0 ∨ rb = 1
  · rw [if_pos hlow]
    rcases hlow with rfl | rfl <;> rfl
  · rw [if_neg hlow, if_pos (by bv_omega)]
    rfl

theorem exec_rbWrite (b : Byte) : exec (.rbWrite 2 b) s
    = .next (State.replied { s with ub := s.ub.write b } [0x00, flagByte (!s.ub.isFull)]) :=
  onUserRing_two s _ hfree

theorem exec_rbWriteArray (data : List Byte) : exec (.rbWriteArray 2 data) s
    = .next (State.replied { s with ub := s.ub.writeArray data } (0x00 :: u16Bytes (s.ub.accepts data.length))) :=
  onUserRing_two s _ hfree

theorem exec_rbRead : exec (.rbRead 2) s
    = .next (State.replied { s with ub := s.ub.read } [0x00, flagByte (!s.ub.isEmpty), s.ub.headByte]) :=
  onUserRing_two s _ hfree

theorem exec_rbPeek : exec (.rbPeek 2) s = .next (s.replied [0x00, flagByte (!s.ub.isEmpty), s.ub.headByte]) :=
  onUserRing_two s _ hfree

theorem exec_rbReadArray (n : Half) : exec (.rbReadArray 2 n) s
    = .next (State.replied { s with ub := s.ub.consume n.toNat } (0x00 :: countedBytes (s.ub.front n.toNat))) :=
  onUserRing_two s _ hfree

theorem exec_rbAvailable : exec (.rbAvailable 2) s = .next (s.replied (0x00 :: u16Bytes s.ub.count)) :=
  onUserRing_two s _ hfree

theorem exec_rbAvailableForWrite :
    exec (.rbAvailableForWrite 2) s = .next (s.replied (0x00 :: u16Bytes s.ub.space)) :=
  onUserRing_two s _ hfree

theorem exec_rbIsFull : exec (.rbIsFull 2) s = .next (s.replied [0x00, flagByte s.ub.isFull]) :=
  onUserRing_two s _ hfree

theorem exec_rbIsEmpty : exec (.rbIsEmpty 2) s = .next (s.replied [0x00, flagByte s.ub.isEmpty]) :=
  onUserRing_two s _ hfree

/-- A 16-bit capacity is never above `RB_CAP_MAX`, so the refusal of R193 does not arise. -/
theorem exec_rbResize (n : Half) :
    exec (.rbResize 2 n) s = .next (State.replied { s with ub := .resize n.toNat } [0x00]) :=
  (onUserRing_two s _ hfree).trans (if_neg (Nat.not_lt.mpr (Nat.le_of_lt_succ n.isLt)))

end RingCommands

theorem flagByte_decide (p : Prop) [Decidable p] : flagByte (decide p) = if p then 1 else 0 := by
  simp only [flagByte, decide_eq_true_eq]

/-- The operands of format `CRN` (R111) are read back from their bytes. -/
theorem decodeOn_command_halfBytes {i : Half → Instr} {op rb : Byte} (hw : ∀ n, (i n).WellFormed)
    (hport : ∀ n, (i n).port = .command) (hbytes : ∀ n, encode (i n) = op :: rb :: halfBytes n) (b0 b1 : Byte) :
    decodeOn .command [op, rb, b0, b1] = .accepted (i (le16 b0 b1)) := by
  have h := decodeEncodeAgree (i (le16 b0 b1)) (hw _)
  rwa [hport, hbytes, halfBytes_le16] at h

/-- Settles O22: the gate of R181 stands in front of each of the ten commands. -/
theorem ringCommandsNeedUserBuffer : Obligations.RingCommandsNeedUserBuffer := by
  intro s rb b data n hfree hrb i hi
  fin_cases hi <;> exact onUserRing_of_ne hfree hrb _

/-- Settles O23: `RingBuffer.write` by the two cases of R182. -/
theorem rbWriteResult : Obligations.RbWriteResult := by
  refine ⟨fun rb b => decodeEncodeAgree (.rbWrite rb b) rfl,
    fun s b hfree hub => ⟨fun hfull => ?_, fun hroom => ?_⟩⟩
  · rw [exec_rbWrite hfree, s.ub.write_of_full b hfull, s.ub.isFull_iff.mpr hfull]
    rfl
  · have hstore := Memory.read_write s.ub.store hub.canonical s.ub.tail b
    refine ⟨s.ub.write b, ?_, s.ub.write_cap b, s.ub.write_head b, ?_⟩
    · have hflag : s.ub.isFull = false := decide_eq_false hroom.ne
      rw [exec_rbWrite hfree, hflag]
      rfl
    · rw [s.ub.content_write b hub, if_neg hroom.ne, s.ub.write_of_room b hroom.ne]
      exact ⟨rfl, rfl, (hstore _).trans (if_pos rfl), fun x hx => (hstore x).trans (if_neg hx), rfl⟩

/-- Settles O24: the bulk write, index by index and on the content. -/
theorem rbWriteArrayResult : Obligations.RbWriteArrayResult :=
  ⟨fun rb data hlen => decodeEncodeAgree (.rbWriteArray rb data) (decide_eq_true hlen), fun s data hfree hub =>
    ⟨s.ub.writeArray data, exec_rbWriteArray hfree data, s.ub.appended_writeArray data hub,
      s.ub.content_writeArray data hub⟩⟩

/-- Settles O25: the two commands answer alike; the content loses its head to `RB_READ` only. -/
theorem rbReadAndPeekResult : Obligations.RbReadAndPeekResult := by
  refine ⟨fun rb => decodeEncodeAgree (.rbRead rb) rfl, fun rb => decodeEncodeAgree (.rbPeek rb) rfl,
    fun s hfree hub => ⟨fun hempty => ?_, fun hpos => ?_⟩⟩
  · have hanswer : [flagByte (!s.ub.isEmpty), s.ub.headByte] = [0, 0] := by
      simp [RingBuffer.isEmpty, RingBuffer.headByte, hempty, flagByte]
    rw [exec_rbRead hfree, exec_rbPeek hfree, RingBuffer.read_of_empty hempty, hanswer]
    exact ⟨rfl, rfl⟩
  · have hanswer : [flagByte (!s.ub.isEmpty), s.ub.headByte] = [1, s.ub.store.read s.ub.head] := by
      simp [RingBuffer.isEmpty, RingBuffer.headByte, hpos.ne', flagByte]
    rw [exec_rbRead hfree, exec_rbPeek hfree, hanswer]
    exact ⟨s.ub.read, rfl, rfl, RingBuffer.read_of_pos hpos,
      RingBuffer.headByte_of_pos hpos ▸ RingBuffer.content_of_pos hub hpos⟩

/-- Settles O26: the bytes returned are the front of the content, and its rest stays. -/
theorem rbReadArrayResult : Obligations.RbReadArrayResult := by
  refine ⟨fun rb => decodeOn_command_halfBytes (i := .rbReadArray rb) (fun _ => rfl) (fun _ => rfl) fun _ => rfl,
    fun s n hfree _ => ?_⟩
  intro k out
  have hfront : s.ub.front n.toNat = out := Memory.loadRing_eq ..
  have hlen : s.ub.holds n.toNat = k := rfl
  have hcontent := s.ub.content_eq_front_append n.toNat
  rw [hfront, s.ub.consume_eq_without] at hcontent
  rw [exec_rbReadArray hfree, s.ub.consume_eq_without, countedBytes, s.ub.length_front, hfront, hlen]
  exact ⟨rfl, hcontent⟩

/-- Settles O27: each query answers what R189 to R192 derive from the registers. -/
theorem rbQueriesResult : Obligations.RbQueriesResult := by
  refine ⟨fun rb => ⟨decodeEncodeAgree (.rbAvailable rb) rfl, decodeEncodeAgree (.rbAvailableForWrite rb) rfl,
    decodeEncodeAgree (.rbIsFull rb) rfl, decodeEncodeAgree (.rbIsEmpty rb) rfl⟩, fun s hfree =>
    ⟨exec_rbAvailable hfree, exec_rbAvailableForWrite hfree, ?_, ?_⟩⟩
  · rw [exec_rbIsFull hfree, RingBuffer.isFull, flagByte_decide]
  · rw [exec_rbIsEmpty hfree, RingBuffer.isEmpty, flagByte_decide]

/-- Settles O28: a resized buffer is empty, so it is full when it has no place. -/
theorem rbResizeResult : Obligations.RbResizeResult := by
  refine ⟨fun rb => decodeOn_command_halfBytes (i := .rbResize rb) (fun _ => rfl) (fun _ => rfl) fun _ => rfl,
    fun s n hfree => ⟨.resize n.toNat, exec_rbResize hfree n, rfl, rfl, rfl, rfl, rfl, rfl, ?_⟩⟩
  rw [RingBuffer.isFull_iff]
  show 0 = n.toNat ↔ n = 0
  bv_omega

end Sys2Proof.Machine

/-! ## Proofs: the transmit side (43_transport_tx.md)

Configuration and session, then a send from the bytes staged to its end: the frame that is built, the two ways of
sending it, one attempt, its report and the retry decision. Each operation's result is an equation between states; a
whole send is a run of these equations. -/

namespace Sys2Proof.Machine

/-! ### Configuration (R210) -/

theorem cfgWidth_eq (idx : Nat) : cfgWidth idx = [16, 2, 64, 2, 64, 16, 32, 8, 32, 16, 16].getD idx 0 := by
  match idx with
  | 0 | 1 | 2 | 3 | 4 | 5 | 6 | 7 | 8 | 9 | 10 | _ + 11 => rfl

theorem cfgRefused_iff (idx : Byte) (val : Word64) :
    cfgRefused idx.toNat val = true
      ↔ 10 < idx.toNat ∨ 2 ^ ([16, 2, 64, 2, 64, 16, 32, 8, 32, 16, 16].getD idx.toNat 0) ≤ val.toNat
        ∨ ((idx = 1 ∨ idx = 3) ∧ val = 1) := by
  have h1 : idx.toNat = 1 ↔ idx = 1 := BitVec.toNat_inj (y := 1)
  have h3 : idx.toNat = 3 ↔ idx = 3 := BitVec.toNat_inj (y := 3)
  simp only [cfgRefused, cfgWidth_eq, Bool.or_eq_true, Bool.and_eq_true, decide_eq_true_eq, h1, h3, or_assoc]

/-- A value that fits its register is read back from it (R37). -/
theorem CfgRegs.value_write_same (c : CfgRegs) {idx : Nat} {val : Word64} (hidx : idx ≤ 10)
    (hval : val.toNat < 2 ^ cfgWidth idx) : (c.write idx val).value idx = val.toNat := by
  match idx with
  | 2 | 4 => rfl
  | 0 | 1 | 3 | 5 | 6 | 7 | 8 | 9 | 10 => exact (BitVec.toNat_setWidth ..).trans (Nat.mod_eq_of_lt hval)

theorem CfgRegs.value_write_other (c : CfgRegs) {idx j : Nat} (val : Word64) (hj : j ≠ idx) :
    (c.write idx val).value j = c.value j := by
  unfold CfgRegs.write
  split
  case h_12 => rfl
  all_goals
    unfold CfgRegs.value
    split <;> simp_all

/-- A little-endian word of `k` bytes has these bytes (R14, R111). -/
theorem leBytes_ofNat_leNat {k : Nat} {bs : List Byte} (h : bs.length = k) :
    leBytes k (BitVec.ofNat (8 * k) (leNat bs)).toNat = bs := h ▸ leBytes_toNat_ofNat_leNat bs

/-- The operand of `CFG_WRITE` is read back from its eight bytes (R111). -/
theorem decodeOn_cfgWrite (idx : Byte) (bs : List Byte) (h : bs.length = 8) :
    decodeOn .command (0x30 :: idx :: bs) = .accepted (.cfgWrite idx (BitVec.ofNat 64 (leNat bs))) := by
  have hd := decodeEncodeAgree (.cfgWrite idx (BitVec.ofNat 64 (leNat bs))) rfl
  rwa [encode, leBytes_ofNat_leNat h] at hd

section Session

variable {s : State} (hfree : s.appCmd = .none)

include hfree

theorem exec_cfgWrite_of_refused {idx : Byte} {val : Word64} (h : s.live = true ∨ cfgRefused idx.toNat val = true) :
    exec (.cfgWrite idx val) s = .next (s.replied [0x09]) := by
  refine (whenFree_of_idle s _ hfree).trans ?_
  by_cases hlive : s.live = true
  · exact if_pos hlive
  · exact (if_neg hlive).trans (if_pos (h.resolve_left hlive))

theorem exec_cfgWrite_of_legal {idx : Byte} {val : Word64} (hlive : s.live = false)
    (h : ¬ cfgRefused idx.toNat val = true) :
    exec (.cfgWrite idx val) s = .next (State.replied { s with cfg := s.cfg.write idx.toNat val } [0x00]) := by
  refine (whenFree_of_idle s _ hfree).trans ?_
  rw [hlive]
  exact if_neg h

theorem exec_tBegin_of_live (hlive : s.live = true) : exec .tBegin s = .next (s.replied [0x09]) :=
  (whenFree_of_idle s _ hfree).trans (if_pos hlive)

theorem exec_tBegin_of_dead (hlive : s.live = false) :
    exec .tBegin s
      = .next ((s.setSession true s.cfg.txCap.toNat s.cfg.rxCap.toNat Config.seqInit).replied [0x00]) := by
  refine (whenFree_of_idle s _ hfree).trans ?_
  rw [hlive]
  rfl

theorem exec_tEnd_of_live (hlive : s.live = true) :
    exec .tEnd s = .next ((s.setSession false 0 0 0).replied [0x00]) := whenLive_of_live s _ hfree hlive

end Session

/-- Settles O32: what R210 refuses is `cfgRefused`, and a value that is not refused fits its register. -/
theorem cfgWriteResult : Obligations.CfgWriteResult := by
  refine ⟨fun idx v0 v1 v2 v3 v4 v5 v6 v7 => decodeOn_cfgWrite idx [v0, v1, v2, v3, v4, v5, v6, v7] rfl,
    fun s idx val hfree => ?_⟩
  intro illegal
  have hiff : cfgRefused idx.toNat val = true ↔ illegal := cfgRefused_iff idx val
  refine ⟨fun h => exec_cfgWrite_of_refused hfree (h.imp_right hiff.mpr), fun hlive hlegal => ?_⟩
  refine ⟨s.cfg.write idx.toNat val, exec_cfgWrite_of_legal hfree hlive (mt hiff.mp hlegal), ?_,
    fun j hj => s.cfg.value_write_other val hj⟩
  obtain ⟨hidx, hwidth, -⟩ := by simpa only [illegal, not_or] using hlegal
  exact s.cfg.value_write_same (Nat.not_lt.mp hidx) (cfgWidth_eq _ ▸ Nat.not_le.mp hwidth)

/-! ### Session (R211, R212) -/

/-- Settles O33: the registers are those of `State.setSession`, with the configured capacities. -/
theorem tBeginResult : Obligations.TBeginResult :=
  ⟨decodeEncodeAgree .tBegin rfl, fun _ hfree => ⟨exec_tBegin_of_live hfree, fun hlive =>
    ⟨_, exec_tBegin_of_dead hfree hlive, ⟨rfl, rfl⟩, ⟨rfl, rfl, rfl, rfl⟩, ⟨rfl, rfl, rfl, rfl⟩,
      ⟨rfl, rfl, rfl, rfl, rfl, rfl, rfl⟩, ⟨rfl, rfl, rfl⟩, ⟨rfl, rfl, rfl, rfl, rfl, rfl⟩, rfl, rfl, rfl, rfl⟩⟩⟩

/-- Settles O34: the registers are those of `State.setSession`, with no session and both buffers of capacity 0. -/
theorem tEndResult : Obligations.TEndResult := by
  refine ⟨decodeEncodeAgree .tEnd rfl, fun s hfree => ⟨whenLive_of_dead s _ hfree, fun hlive =>
    ⟨_, exec_tEnd_of_live hfree hlive, ⟨rfl, rfl⟩, fun rb hrb => ?_,
      ⟨rfl, rfl, rfl, rfl, rfl, rfl, rfl⟩, ⟨rfl, rfl, rfl⟩, ⟨rfl, rfl, rfl, rfl, rfl, rfl⟩, rfl, rfl, rfl, rfl⟩⟩⟩
  have hempty : rb = .resize 0 := by
    rcases List.mem_pair.mp hrb with rfl | rfl <;> rfl
  exact hempty ▸ ⟨rfl, rfl, rfl, rfl⟩

/-! ### The frame of a chunk (R216) -/

/-- A field is the word's own bits from its place on. -/
theorem getLsbD_field (w : Half) {lo n i : Nat} (hi : i < n) : (field w lo n).getLsbD i = w.getLsbD (lo + i) := by
  rw [field_eq_extractLsb', BitVec.getLsbD_extractLsb']
  simp [hi]

section TxFcf

variable (c : CfgRegs)

/-- The four parts of the word stay below one another's weights. -/
theorem toNat_txFcf : (txFcf c).toNat = c.fcfTmpl.toNat % 1024 + 1024 * c.destAddrMode.toNat
    + 4096 * (c.fcfTmpl.toNat / 4096 % 4) + 16384 * c.localAddrMode.toNat := by
  have hdest := c.destAddrMode.isLt
  have hsrc := c.localAddrMode.isLt
  have hver : (field c.fcfTmpl 12 2).toNat = c.fcfTmpl.toNat / 4096 % 4 := toNat_field ..
  rw [txFcf, hver, BitVec.toNat_ofNat]
  omega

theorem destModeOf_txFcf : destModeOf (txFcf c) = c.destAddrMode :=
  field_eq_of_toNat (by rw [toNat_txFcf]; omega)

theorem srcModeOf_txFcf : srcModeOf (txFcf c) = c.localAddrMode :=
  field_eq_of_toNat (by rw [toNat_txFcf]; omega)

/-- The bits below the modes, and the frame version between them, are the template's. -/
theorem field_txFcf_of_template {lo n : Nat} (h : lo = 0 ∧ n = 10 ∨ lo = 12 ∧ n = 2) :
    field (txFcf c) lo n = field c.fcfTmpl lo n := by
  have hdest := c.destAddrMode.isLt
  refine field_eq_of_toNat ?_
  rw [toNat_field, toNat_txFcf]
  rcases h with ⟨rfl, rfl⟩ | ⟨rfl, rfl⟩ <;> omega

theorem getLsbD_txFcf {i : Nat} (h : i < 10 ∨ i = 12 ∨ i = 13) : (txFcf c).getLsbD i = c.fcfTmpl.getLsbD i := by
  have hbit {lo n k : Nat} (hp : lo = 0 ∧ n = 10 ∨ lo = 12 ∧ n = 2) (hk : k < n) :
      (txFcf c).getLsbD (lo + k) = c.fcfTmpl.getLsbD (lo + k) := by
    rw [← getLsbD_field _ hk, field_txFcf_of_template c hp, getLsbD_field _ hk]
  rcases h with h | rfl | rfl
  · simpa using hbit (.inl ⟨rfl, rfl⟩) h
  · exact hbit (k := 0) (.inr ⟨rfl, rfl⟩) (by decide)
  · exact hbit (k := 1) (.inr ⟨rfl, rfl⟩) (by decide)

end TxFcf

/-- Settles O39: the frame is well formed and fits, so it is built, stored, and read back by `PARSE`. -/
theorem transportFrame : Obligations.TransportFrame := by
  intro s chunk hwf hmtu
  have hfits := s.fits_of_mtu chunk hmtu
  have hmax := frameMax_le
  have hbyte : frameTotal (s.txFrameOf chunk) ≤ 255 := Nat.le_trans hfits hmax
  have hmodes := s.txFrameOf_modesAgree chunk
  refine ⟨fun _ => getLsbD_txFcf s.cfg, destModeOf_txFcf s.cfg, srcModeOf_txFcf s.cfg, rfl, rfl, rfl, rfl, rfl, rfl,
    s.loadFrame (wireBytes (s.txFrameOf chunk)), wireBytes (s.txFrameOf chunk), s.makeFrame_of_fits chunk hfits,
    (build_eq_ok ..).mpr ⟨hmodes, hbyte, hfits, rfl⟩, rfl, s.tx.txFrame.stored_writeBytes _ hwf,
    s.frameBytes_loadFrame _ hwf, s.length_txWire chunk, ?_, hmax,
    parse_received hmodes (s.txFrameOf_wf chunk) hbyte 0x00 []⟩
  rw [s.length_txWire chunk]
  exact hfits

/-! ### Draining (R217) -/

/-- With all its bytes taken a buffer is empty. -/
theorem RingBuffer.content_without_count (rb : RingBuffer) : (rb.without rb.count).content = [] := by
  rw [RingBuffer.content_without rb _ le_rfl]
  exact List.drop_of_length_le (by simp)

/-- `DRAIN` in terms of the abstract content. -/
theorem State.drainTxb_eq (s : State) :
    s.drainTxb = { s with
      tx := { s.tx with txb := s.tx.txb.without (min s.tx.txb.count Config.mtu) }
      latch := { s.latch with
        drainReq := false, chunk := some (s.tx.txb.content.take (min s.tx.txb.count Config.mtu)) } } := by
  have hmin : min (min s.tx.txb.count Config.mtu) s.tx.txb.count = min s.tx.txb.count Config.mtu := by omega
  rw [State.drainTxb, RingBuffer.consume_eq_without, RingBuffer.front_eq, hmin]
  rfl

/-- Settles O40: an enabled `DRAIN` splits the content after its first `min(TXB.count, MTU)` bytes. -/
theorem drainResult : Obligations.DrainResult := by
  refine ⟨decodeEncodeAgree .drain rfl, fun s hreq hcount => ?_⟩
  intro n
  have henabled : s.drainEnabled = true := by simp [State.drainEnabled, hreq, hcount]
  have hlen : (s.tx.txb.content.take n).length = n := by
    rw [List.length_take, RingBuffer.length_content]
    omega
  refine ⟨?_, ?_, ?_⟩
  · exact (if_pos henabled).trans (congrArg _ s.drainTxb_eq)
  · rw [RingBuffer.content_without _ n (by omega), List.take_append_drop]
  · have := mtu_pos
    omega

/-! ### The two sends (R219, R220) -/

section Sends

variable {s : State} {out : List Byte}

theorem State.sendOnce_of_taken (hf : s.tx.frameBytes = out) (ha : s.io.txAnswer = true) :
    s.sendOnce = { s with
      tx := { s.tx with outSeq := s.tx.outSeq + 1 }
      env := { s.env with inflight := s.env.inflight ++ [out] }
      io := { s.io with txCalls := s.io.txCalls ++ [⟨out, true⟩] } } := by
  rw [State.sendOnce_eq, if_pos ha, hf]

theorem State.sendOnce_of_refused (hf : s.tx.frameBytes = out) (ha : s.io.txAnswer = false) :
    s.sendOnce = State.noted { s with io := { s.io with txCalls := s.io.txCalls ++ [⟨out, false⟩] } }
      [⟨.txFailed, [s.tx.outSeq.toNat]⟩] := by
  rw [State.sendOnce_eq, ha, hf]
  rfl

theorem State.theChunk_of_latch {chunk : List Byte} (h : s.latch.chunk = some chunk) : s.theChunk = chunk := by
  simp [State.theChunk, h]

theorem exec_sendNoconf_of_chunk {chunk : List Byte} (h : s.latch.chunk = some chunk) :
    exec .sendNoconf s = s.startSendNoconf := if_pos (by simp [State.sendNoconfEnabled, h])

theorem exec_sendConf_of_chunk {chunk : List Byte} (h : s.latch.chunk = some chunk) (hidle : s.tx.arqState = .idle)
    (hsend : s.tx.sendActive = false) : exec .sendConf s = s.startSendConf :=
  if_pos (by simp [State.sendConfEnabled, h, hidle, hsend])

end Sends

/-- Settles O41: the frame is built where it fits, and is then what `transmit` is called with. -/
theorem sendSetUps : Obligations.SendSetUps := by
  intro s chunk hlatch hwf
  obtain rfl := State.theChunk_of_latch hlatch
  intro out
  have hbytes : (s.loadFrame out).takeChunk.tx.frameBytes = out := s.frameBytes_loadFrame out hwf
  have hstored := s.tx.txFrame.stored_writeBytes out hwf
  refine ⟨fun hfits => ⟨_, hstored, fun ha => ?_, fun ha => ?_, fun hidle hsend => ?_⟩,
    fun hover => ⟨?_, fun hidle hsend => ?_⟩⟩
  · rw [exec_sendNoconf_of_chunk hlatch, s.startSendNoconf_of_fits hfits]
    exact congrArg _ (State.sendOnce_of_taken hbytes ha)
  · rw [exec_sendNoconf_of_chunk hlatch, s.startSendNoconf_of_fits hfits]
    exact congrArg _ (State.sendOnce_of_refused hbytes ha)
  · rw [exec_sendConf_of_chunk hlatch hidle hsend, s.startSendConf_of_fits hfits]
    rfl
  · rw [exec_sendNoconf_of_chunk hlatch, State.startSendNoconf, s.makeFrame_of_overflow _ hover]
  · rw [exec_sendConf_of_chunk hlatch hidle hsend, State.startSendConf, s.makeFrame_of_overflow _ hover]

/-! ### `T_WRITE` and `T_FLUSH` (R213 to R215) -/

/-- `s` after all that was staged has left TXB as the payload of the frame in `TXFRAME` (R216, R217). -/
def State.flushed (s : State) : State :=
  { s with
    tx := { s.tx with
      txb := s.tx.txb.without s.tx.txb.count
      txFrame := s.tx.txFrame.writeBytes 0 (wireBytes (s.txFrameOf s.tx.txb.content))
      txFrameLen := (wireBytes (s.txFrameOf s.tx.txb.content)).length } }

section Flush

variable {s : State}

/-- A frame's worth at most is all of the content. -/
theorem RingBuffer.take_min_content {rb : RingBuffer} (hmtu : rb.count ≤ Config.mtu) :
    rb.content.take (min rb.count Config.mtu) = rb.content :=
  List.take_of_length_le (by rw [rb.length_content, Nat.min_eq_left hmtu])

/-- With bytes staged the flush drains and sends them (R215). -/
theorem exec_tFlush_of_staged (hfree : s.appCmd = .none) (hlive : s.live = true) (hpos : 0 < s.tx.txb.count) :
    exec .tFlush s = s.drainAndSend .flush [] :=
  (whenLive_of_live s _ hfree hlive).trans (if_neg hpos.ne')

/-- At most `MTU` bytes staged are drained together. -/
theorem State.framed_eq_flushed (hlatch : s.latch = .clear) (hmtu : s.tx.txb.count ≤ Config.mtu) :
    s.framed (s.tx.txb.content.take (min s.tx.txb.count Config.mtu)) = s.flushed := by
  have hclear : { s.latch with drainReq := false, chunk := none } = s.latch := by rw [hlatch]; rfl
  rw [RingBuffer.take_min_content hmtu, State.framed, Nat.min_eq_left hmtu, hclear]
  rfl

theorem State.frameBytes_flushed (hwf : s.tx.txFrame.wf = true) :
    s.flushed.tx.frameBytes = wireBytes (s.txFrameOf s.tx.txb.content) := s.frameBytes_loadFrame _ hwf

variable (c : AppCmd) (results : List Byte) (hlatch : s.latch = .clear) (hmtu : s.tx.txb.count ≤ Config.mtu)

include hlatch hmtu

theorem State.drainAndSend_of_ackRequest (hack : s.cfg.fcfTmpl.getLsbD 5 = true) :
    s.drainAndSend c results = .next (s.flushed.armSend.setAppCmd c) := by
  rw [s.drainAndSend_confirmed c results hack, State.framed_eq_flushed hlatch hmtu]

theorem State.drainAndSend_of_taken (hwf : s.tx.txFrame.wf = true) (hack : s.cfg.fcfTmpl.getLsbD 5 = false)
    (ha : s.io.txAnswer = true) :
    s.drainAndSend c results = .next (State.replied { s.flushed with
      tx := { s.flushed.tx with outSeq := s.tx.outSeq + 1 }
      env := { s.env with inflight := s.env.inflight ++ [wireBytes (s.txFrameOf s.tx.txb.content)] }
      io := { s.io with txCalls := s.io.txCalls ++ [⟨wireBytes (s.txFrameOf s.tx.txb.content), true⟩] } }
        (0x00 :: results)) := by
  rw [s.drainAndSend_unconfirmed c results hack, State.framed_eq_flushed hlatch hmtu,
    State.sendOnce_of_taken (State.frameBytes_flushed hwf) ha]
  rfl

theorem State.drainAndSend_of_refused (hwf : s.tx.txFrame.wf = true) (hack : s.cfg.fcfTmpl.getLsbD 5 = false)
    (ha : s.io.txAnswer = false) :
    s.drainAndSend c results = .next (State.replied (State.noted { s.flushed with
      io := { s.io with txCalls := s.io.txCalls ++ [⟨wireBytes (s.txFrameOf s.tx.txb.content), false⟩] } }
        [⟨.txFailed, [s.tx.outSeq.toNat]⟩]) (0x00 :: results)) := by
  rw [s.drainAndSend_unconfirmed c results hack, State.framed_eq_flushed hlatch hmtu,
    State.sendOnce_of_refused (State.frameBytes_flushed hwf) ha]
  rfl

end Flush

/-- Settles O38: all that is staged is drained and sent as the FCF template selects. -/
theorem tFlushResult : Obligations.TFlushResult := by
  intro s hfree hlatch hwf
  refine ⟨whenLive_of_dead s _ hfree, fun hlive hempty => (whenLive_of_live s _ hfree hlive).trans (if_pos hempty),
    fun hlive hpos hmtu => ?_⟩
  rw [exec_tFlush_of_staged hfree hlive hpos]
  exact ⟨_, s.tx.txFrame.stored_writeBytes _ hwf, s.tx.txb.content_without_count,
    State.drainAndSend_of_ackRequest .flush [] hlatch hmtu, State.drainAndSend_of_taken .flush [] hlatch hmtu hwf,
    State.drainAndSend_of_refused .flush [] hlatch hmtu hwf⟩

section Write

variable {s : State} {b : Byte}

/-- The byte is staged at the tail of TXB (R182, R214). -/
theorem RingBuffer.appended_write {rb : RingBuffer} (hw : rb.Wf) (hroom : rb.count < rb.cap) :
    rb.Appended (rb.write b) [b] := by
  have h := rb.appended_writeArray [b] hw
  rwa [← rb.write_eq_writeArray b hw, List.take_of_length_le (by simp; omega)] at h

theorem RingBuffer.count_write {rb : RingBuffer} (hroom : rb.count ≠ rb.cap) : (rb.write b).count = rb.count + 1 := by
  rw [rb.write_of_room b hroom]

theorem State.drainDue_iff (s : State) :
    s.drainDue = true ↔ s.tx.txb.count = s.tx.txb.cap ∨ Config.mtu ≤ s.tx.txb.count := by
  simp only [State.drainDue, Bool.or_eq_true, RingBuffer.isFull_iff, decide_eq_true_eq]

variable (hfree : s.appCmd = .none) (hlive : s.live = true)

include hfree hlive

theorem exec_tWrite_of_full (hfull : s.tx.txb.count = s.tx.txb.cap) :
    exec (.tWrite b) s = .next (s.replied [0x00, 0]) :=
  (whenLive_of_live s _ hfree hlive).trans (if_pos (s.tx.txb.isFull_iff.mpr hfull))

/-- With room in TXB the byte is staged, and is sent where it completes a frame's worth. -/
theorem exec_tWrite_of_room (hroom : s.tx.txb.count ≠ s.tx.txb.cap) :
    exec (.tWrite b) s = if s.tx.txb.count + 1 = s.tx.txb.cap ∨ Config.mtu ≤ s.tx.txb.count + 1 then
        (s.setTxb (s.tx.txb.write b)).drainAndSend .write [1]
      else .next (State.replied { s with tx := { s.tx with txb := s.tx.txb.write b } } [0x00, 1]) := by
  have hdue : (s.setTxb (s.tx.txb.write b)).drainDue = true
      ↔ s.tx.txb.count + 1 = s.tx.txb.cap ∨ Config.mtu ≤ s.tx.txb.count + 1 := by
    rw [State.drainDue_iff, State.setTxb_tx, RingBuffer.count_write hroom, RingBuffer.write_cap]
  refine (whenLive_of_live s _ hfree hlive).trans ((if_neg (mt s.tx.txb.isFull_iff.mp hroom)).trans ?_)
  exact if_congr hdue rfl rfl

end Write

/-- Settles O36: a byte short of a frame's worth is appended to TXB, and that is all. -/
theorem tWriteStages : Obligations.TWriteStages := by
  intro s b hi hfree
  refine ⟨whenLive_of_dead s _ hfree, fun hlive hcap => ?_, fun hlive hroom hmtu => ?_⟩
  · have hcount := hi.txb.count
    exact exec_tWrite_of_full hfree hlive (by omega)
  · have hcontent := s.tx.txb.content_write b hi.txb
    rw [if_neg (by omega)] at hcontent
    refine ⟨s.tx.txb.write b, ?_, RingBuffer.appended_write hi.txb (by omega), hcontent⟩
    rw [exec_tWrite_of_room hfree hlive (by omega), if_neg (by omega)]

/-- Settles O37: with the byte appended, what is staged is sent as `T_FLUSH` sends it. -/
theorem tWriteSends : Obligations.TWriteSends := by
  intro s b hi hfree hlive hcap hfills
  have hroom : s.tx.txb.count < s.tx.txb.cap := hi.staged.2 hcap
  have hcount : (s.tx.txb.write b).count = s.tx.txb.count + 1 := RingBuffer.count_write hroom.ne
  have hcontent := s.tx.txb.content_write b hi.txb
  rw [if_neg hroom.ne] at hcontent
  have hexec : exec (.tWrite b) s = (s.setTxb (s.tx.txb.write b)).drainAndSend .write [1] := by
    rw [exec_tWrite_of_room hfree hlive hroom.ne, if_pos (hfills.imp_right Eq.ge)]
  have hlatch : (s.setTxb (s.tx.txb.write b)).latch = .clear := hi.latch
  have hmtu : (s.setTxb (s.tx.txb.write b)).tx.txb.count ≤ Config.mtu := hcount.trans_le hi.staged.1
  rw [← hcontent, ← hcount, hexec]
  exact ⟨s.tx.txb.write b, _, _, RingBuffer.appended_write hi.txb hroom, rfl, RingBuffer.content_without_count _,
    s.tx.txFrame.stored_writeBytes _ hi.txFrame.1,
    State.drainAndSend_of_ackRequest .write [1] hlatch hmtu,
    State.drainAndSend_of_taken .write [1] hlatch hmtu hi.txFrame.1,
    State.drainAndSend_of_refused .write [1] hlatch hmtu hi.txFrame.1⟩

/-! ### One attempt, its report and the retry decision (R223 to R229) -/

theorem State.awaitsReport_iff (s : State) :
    s.awaitsReport = true ↔ s.live = true ∧ s.tx.arqState = .waiting := by
  simp only [State.awaitsReport, Bool.and_eq_true, decide_eq_true_eq]

theorem State.arqIssueEnabled_iff (s : State) :
    s.arqIssueEnabled = true
      ↔ s.live = true ∧ s.tx.sendActive = true ∧ s.tx.arqState = .idle ∧ s.tx.delayArmed = false := by
  simp only [State.arqIssueEnabled, Bool.and_eq_true, Bool.not_eq_true', decide_eq_true_eq, and_assoc]

theorem State.arqDecideEnabled_iff (s : State) :
    s.arqDecideEnabled = true
      ↔ s.tx.sendActive = true ∧ (s.tx.arqState = .confirmed ∨ s.tx.arqState = .failed) := by
  simp only [State.arqDecideEnabled, Bool.and_eq_true, Bool.or_eq_true, decide_eq_true_eq]

/-- Settles O42: the radio's answer decides between waiting and failure. -/
theorem arqIssueResult : Obligations.ArqIssueResult := by
  refine ⟨decodeEncodeAgree .arqIssue rfl, fun s hlive hsend hidle hdelay => ?_⟩
  have henabled := s.arqIssueEnabled_iff.mpr ⟨hlive, hsend, hidle, hdelay⟩
  refine ⟨fun ha => (if_pos henabled).trans ?_, fun ha => (if_pos henabled).trans ?_⟩
  · rw [if_pos ha, State.transmit, ha]
    rfl
  · rw [ha, State.transmit, ha]
    rfl

/-- The report of `EV_TX_FAILED` carries its error code in four bytes (R111). -/
theorem decodeOn_evTxFailed (bs : List Byte) (h : bs.length = 4) :
    decodeOn .event (0x41 :: bs) = .accepted (.evTxFailed (BitVec.ofNat 32 (leNat bs))) := by
  have hd := decodeEncodeAgree (.evTxFailed (BitVec.ofNat 32 (leNat bs))) rfl
  rwa [encode, leBytes_ofNat_leNat h] at hd

/-- Settles O43: both notifications take one entry off `INFLIGHT`, and act on the block while it waits. -/
theorem transmitReports : Obligations.TransmitReports := by
  refine ⟨decodeEncodeAgree .evTxDone rfl, fun e0 e1 e2 e3 => decodeOn_evTxFailed [e0, e1, e2, e3] rfl, fun s e =>
    ⟨Config.reportedAttempt s.free, s.free + 1, ?_⟩⟩
  rw [← s.awaitsReport_iff]
  exact ⟨fun h => ⟨congrArg _ (if_pos h), congrArg _ (if_pos h)⟩,
    fun h => ⟨congrArg _ (if_neg h), congrArg _ (if_neg h)⟩⟩

/-- Settles O44: each event behind its own timer. -/
theorem timerEvents : Obligations.TimerEvents :=
  ⟨decodeEncodeAgree .evAckTimeout rfl, decodeEncodeAgree .evRetryDelayDone rfl, decodeEncodeAgree .evReadTimeout rfl,
    fun _ => ⟨fun h => if_pos h, fun h => if_pos h, fun h => if_pos h⟩⟩

/-- The deferred response to the command that began the send (R229). -/
theorem State.completeSend_eq_replied (s : State) :
    s.completeSend
      = State.replied { s with appCmd := .none } (if s.appCmd = .write then [0x00, 1] else [0x00]) := by
  unfold State.completeSend
  split <;> rfl

/-- A failed attempt with budget left is tried again after the delay (R229). -/
theorem State.failAttempt_of_left {s : State} (h : 2 ≤ s.tx.retriesLeft) :
    s.failAttempt = ((s.setRetries (s.tx.retriesLeft - 1)).setArq .idle).setDelayTimer := if_neg (by omega)

/-- A failed attempt with the budget used up drops the frame (R229). -/
theorem State.failAttempt_of_exhausted {s : State} (h : s.tx.retriesLeft ≤ 1) :
    s.failAttempt
      = ((s.setRetries 0).advanceSeq.endSend.noted [⟨.dropped, [s.tx.outSeq.toNat]⟩]).completeSend := by
  have hzero : s.tx.retriesLeft - 1 = 0 := by omega
  rw [State.failAttempt, hzero]
  rfl

theorem exec_arqDecide_of_failed {s : State} (hsend : s.tx.sendActive = true) (hfailed : s.tx.arqState = .failed) :
    exec .arqDecide s = .next s.failAttempt :=
  (if_pos (s.arqDecideEnabled_iff.mpr ⟨hsend, .inr hfailed⟩)).trans (congrArg _ (if_neg (by simp [hfailed])))

/-- Settles O45: a send that is over is completed, and only a failed attempt with budget left is not over. -/
theorem arqDecideResult : Obligations.ArqDecideResult := by
  refine ⟨decodeEncodeAgree .arqDecide rfl, fun s hsend => ⟨fun hconfirmed => ?_, fun hfailed hleft => ?_,
    fun hfailed hleft => ?_⟩⟩
  · refine (if_pos (s.arqDecideEnabled_iff.mpr ⟨hsend, .inl hconfirmed⟩)).trans ?_
    rw [if_pos hconfirmed, State.confirmSend, State.completeSend_eq_replied]
    rfl
  · rw [exec_arqDecide_of_failed hsend hfailed, State.failAttempt_of_exhausted hleft, State.completeSend_eq_replied]
    rfl
  · rw [exec_arqDecide_of_failed hsend hfailed, State.failAttempt_of_left hleft]
    rfl

/-! ### A send that fails (R230, R233) -/

/-- `s` stands in a send that a `T_FLUSH` began in `s₀`: `out` is the frame, `calls` the calls of `transmit` so far,
`n` what is left of the budget. -/
structure State.Sending (s₀ : State) (out : List Byte) (calls : List TxCall) (arq : ArqState) (n : Nat)
    (delayed : Bool) (s : State) : Prop where
  live : s.live = true
  appCmd : s.appCmd = .flush
  active : s.tx.sendActive = true
  arq : s.tx.arqState = arq
  left : s.tx.retriesLeft = n
  delay : s.tx.delayArmed = delayed
  frame : s.tx.frameBytes = out
  outSeq : s.tx.outSeq = s₀.tx.outSeq
  cmdOut : s.io.cmdOut = s₀.io.cmdOut
  txCalls : s.io.txCalls = s₀.io.txCalls ++ calls

/-- The send that a `T_FLUSH` began in `s₀` is over after the calls `calls` of `transmit`: `OUT_SEQ` has advanced and
the command is answered (R229). -/
structure State.SendEnded (s₀ : State) (calls : List TxCall) (s : State) : Prop where
  appCmd : s.appCmd = .none
  active : s.tx.sendActive = false
  arq : s.tx.arqState = .idle
  outSeq : s.tx.outSeq = s₀.tx.outSeq + 1
  cmdOut : s.io.cmdOut = s₀.io.cmdOut ++ [[0x00]]
  txCalls : s.io.txCalls = s₀.io.txCalls ++ calls

/-- The call of `transmit` that an attempt makes with the frame `out`, by how the attempt fails. -/
def AttemptFailure.call (out : List Byte) (k : AttemptFailure) : TxCall := ⟨out, decide (k ≠ .refusedByRadio)⟩

theorem runOps_cons {i : Instr} {a : Bool} {s t : State} (h : exec i (s.answering a) = .next t)
    (ops : List (Instr × Bool)) : runOps ((i, a) :: ops) s = runOps ops t := by
  simp only [runOps, h]

/-- The flush sets the send up (R220). -/
theorem State.sending_of_flush {s : State} (hlive : s.live = true) (hfree : s.appCmd = .none)
    (hidle : s.tx.arqState = .idle) (hdelay : s.tx.delayArmed = false) (hwf : s.tx.txFrame.wf = true)
    (hpos : 0 < s.tx.txb.count) (hmtu : s.tx.txb.count ≤ Config.mtu) (hack : s.cfg.fcfTmpl.getLsbD 5 = true) :
    ∃ t, exec .tFlush s = .next t
      ∧ State.Sending s (wireBytes (s.txFrameOf s.tx.txb.content)) [] .idle s.cfg.retryCount.toNat false t := by
  have hexec := (exec_tFlush_of_staged hfree hlive hpos).trans (s.drainAndSend_confirmed .flush [] hack)
  rw [RingBuffer.take_min_content hmtu] at hexec
  exact ⟨_, hexec, hlive, rfl, rfl, hidle, rfl, hdelay, s.frameBytes_framed _ hwf, rfl, rfl, (List.append_nil _).symm⟩

section FailingSend

variable {s₀ s : State} {out : List Byte} {calls : List TxCall} {n : Nat}

theorem State.Sending.issue (h : State.Sending s₀ out calls .idle n false s) (a : Bool) :
    ∃ t, exec .arqIssue (s.answering a) = .next t
      ∧ State.Sending s₀ out (calls ++ [⟨out, a⟩]) (if a then .waiting else .failed) n false t
      ∧ (a = true → t.tx.ackTimerArmed = true) := by
  obtain ⟨htaken, hrefused⟩ := arqIssueResult.2 (s.answering a) h.live h.active h.arq h.delay
  have hcalls : s.io.txCalls ++ [⟨s.tx.frameBytes, a⟩] = s₀.io.txCalls ++ (calls ++ [⟨out, a⟩]) := by
    rw [h.txCalls, h.frame, List.append_assoc]
  cases a with
  | true => exact ⟨_, htaken rfl, { h with arq := rfl, txCalls := hcalls }, fun _ => rfl⟩
  | false => exact ⟨_, hrefused rfl, { h with arq := rfl, txCalls := hcalls }, fun ha => Bool.noConfusion ha⟩

/-- `EV_TX_FAILED` fails the attempt that is waited for (R225). -/
theorem State.Sending.report (h : State.Sending s₀ out calls .waiting n false s) (e : Word32) (a : Bool) :
    ∃ t, exec (.evTxFailed e) (s.answering a) = .next t ∧ State.Sending s₀ out calls .failed n false t := by
  obtain ⟨_, _, hwaits, -⟩ := transmitReports.2.2 (s.answering a) e
  exact ⟨_, (hwaits ⟨h.live, h.arq⟩).2, { h with arq := rfl }⟩

/-- So does `EV_ACK_TIMEOUT` (R227). -/
theorem State.Sending.timeout (h : State.Sending s₀ out calls .waiting n false s) (harmed : s.tx.ackTimerArmed = true)
    (a : Bool) :
    ∃ t, exec .evAckTimeout (s.answering a) = .next t ∧ State.Sending s₀ out calls .failed n false t :=
  ⟨_, (timerEvents.2.2.2 (s.answering a)).1 harmed, { h with arq := rfl }⟩

/-- However an attempt fails, one call of `transmit` is made and the retry decision is due. -/
theorem State.Sending.attempt (h : State.Sending s₀ out calls .idle n false s) (k : AttemptFailure) :
    ∃ t, (∀ ops, runOps (k.steps ++ ops) s = runOps ((.arqDecide, false) :: ops) t)
      ∧ State.Sending s₀ out (calls ++ [k.call out]) .failed n false t := by
  cases k with
  | refusedByRadio =>
    obtain ⟨t, hexec, ht, -⟩ := h.issue false
    exact ⟨t, fun _ => runOps_cons hexec _, ht⟩
  | reported e =>
    obtain ⟨t, hissue, ht, -⟩ := h.issue true
    obtain ⟨u, hreport, hu⟩ := State.Sending.report ht e false
    exact ⟨u, fun _ => (runOps_cons hissue _).trans (runOps_cons hreport _), hu⟩
  | timedOut =>
    obtain ⟨t, hissue, ht, harmed⟩ := h.issue true
    obtain ⟨u, htimeout, hu⟩ := State.Sending.timeout ht (harmed rfl) false
    exact ⟨u, fun _ => (runOps_cons hissue _).trans (runOps_cons htimeout _), hu⟩

/-- With budget left the decision arms the delay before the next attempt (R229). -/
theorem State.Sending.retry (h : State.Sending s₀ out calls .failed n false s) (hn : 2 ≤ n) (a : Bool) :
    ∃ t, exec .arqDecide (s.answering a) = .next t ∧ State.Sending s₀ out calls .idle (n - 1) true t := by
  obtain ⟨-, -, hretry⟩ := arqDecideResult.2 (s.answering a) h.active
  have hleft : s.tx.retriesLeft - 1 = n - 1 := by rw [h.left]
  exact ⟨_, hretry h.arq (hn.trans_eq h.left.symm), { h with arq := rfl, left := hleft, delay := rfl }⟩

/-- With the budget used up the decision ends the send (R229). -/
theorem State.Sending.drop (h : State.Sending s₀ out calls .failed n false s) (hn : n ≤ 1) (a : Bool) :
    ∃ t, exec .arqDecide (s.answering a) = .next t ∧ State.SendEnded s₀ calls t := by
  obtain ⟨-, hdrop, -⟩ := arqDecideResult.2 (s.answering a) h.active
  have hresponse : (if s.appCmd = .write then [0x00, 1] else [0x00] : List Byte) = [0x00] :=
    if_neg (by simp [h.appCmd])
  have hout : s.io.cmdOut ++ [if s.appCmd = .write then [0x00, 1] else [0x00]] = s₀.io.cmdOut ++ [[0x00]] := by
    rw [hresponse, h.cmdOut]
  exact ⟨_, hdrop h.arq (h.left.trans_le hn), rfl, rfl, rfl, congrArg (· + 1) h.outSeq, hout, h.txCalls⟩

/-- The end of the delay makes the next attempt possible (R228). -/
theorem State.Sending.endDelay (h : State.Sending s₀ out calls .idle n true s) (a : Bool) :
    ∃ t, exec .evRetryDelayDone (s.answering a) = .next t ∧ State.Sending s₀ out calls .idle n false t :=
  ⟨_, (timerEvents.2.2.2 (s.answering a)).2.1 h.delay, { h with delay := rfl }⟩

/-- Failing attempts, as many as the budget allows at most: the last one the budget allows ends the send, and no other
does (R230). -/
theorem State.Sending.run_failingSend (ks : List AttemptFailure) (hne : ks ≠ [])
    (h : State.Sending s₀ out calls .idle n false s) (hlen : ks.length ≤ max 1 n) :
    ∃ t, runOps (failingSend ks) s = .next t
      ∧ (ks.length = max 1 n ∧ State.SendEnded s₀ (calls ++ ks.map (·.call out)) t
        ∨ ks.length < max 1 n
          ∧ ∃ m delayed, State.Sending s₀ out (calls ++ ks.map (·.call out)) .idle m delayed t) := by
  induction ks generalizing s calls n with
  | nil => exact absurd rfl hne
  | cons k ks ih =>
    obtain ⟨u, hattempt, hu⟩ := h.attempt k
    cases ks with
    | nil =>
      have hrun := hattempt []
      rw [List.append_nil] at hrun
      by_cases hn : n ≤ 1
      · obtain ⟨t, hdrop, ht⟩ := hu.drop hn false
        exact ⟨t, hrun.trans (runOps_cons hdrop []), .inl ⟨(Nat.max_eq_left hn).symm, ht⟩⟩
      · obtain ⟨t, hretry, ht⟩ := hu.retry (by omega) false
        exact ⟨t, hrun.trans (runOps_cons hretry []), .inr ⟨by simp; omega, _, _, ht⟩⟩
    | cons k' ks =>
      rw [List.length_cons, List.length_cons] at hlen
      obtain ⟨v, hretry, hv⟩ := hu.retry (by omega) false
      obtain ⟨w, hdelay, hw⟩ := hv.endDelay false
      obtain ⟨t, hrest, ht⟩ := ih (by simp) hw (by rw [List.length_cons]; omega)
      refine ⟨t, ((hattempt _).trans ((runOps_cons hretry _).trans (runOps_cons hdelay _))).trans hrest, ?_⟩
      have hcount : max 1 n = max 1 (n - 1) + 1 := by omega
      rw [List.map_cons, List.append_cons, List.length_cons, hcount, Nat.add_right_cancel_iff,
        Nat.add_lt_add_iff_right]
      exact ht

end FailingSend

/-- Settles O49: the flush sets the send up with the budget of `RETRY_COUNT`, and the attempts use it up. -/
theorem retriesExhaust : Obligations.RetriesExhaust := by
  intro s ks hlive hfree _ hidle hdelay hwf hpos hmtu hack hne hlen
  obtain ⟨u, hflush, hu⟩ :=
    State.sending_of_flush (s := s.answering false) hlive hfree hidle hdelay hwf hpos hmtu hack
  obtain ⟨t, hrun, ht⟩ := hu.run_failingSend ks hne hlen
  refine ⟨t, (runOps_cons hflush _).trans hrun, ?_⟩
  rcases ht with ⟨hall, ht⟩ | ⟨hfew, _, _, ht⟩
  · exact ⟨ht.txCalls, ht.arq, fun _ => ⟨ht.outSeq, ht.active, ht.appCmd, ht.cmdOut⟩, fun h => absurd hall h.ne⟩
  · exact ⟨ht.txCalls, ht.arq, fun h => absurd h hfew.ne, fun _ => ⟨ht.outSeq, ht.active, ht.appCmd, ht.cmdOut⟩⟩

/-! ### Operations that leave the transmit registers alone -/

theorem Leads.mono {o : Host.Outcome State Fault Refusal} {P Q : State → Prop} (h : Leads o P)
    (himp : ∀ t, P t → Q t) : Leads o Q := fun t ht => himp t (h t ht)

theorem leads_of_eq {o : Host.Outcome State Fault Refusal} {P : State → Prop} {t : State} (h : o = .next t)
    (ht : P t) : Leads o P := h ▸ leads_next ht

/-- A busy port takes no command (R115). -/
theorem exec_of_busy {i : Instr} {s : State} (hi : i.port = .command) (hbusy : s.appCmd ≠ .none) :
    exec i s = .next s := by
  cases i with
  | evTxDone | evTxFailed _ | evAckTimeout | evRetryDelayDone | evReadTimeout | evRxEnqueue _ _ _ _ => cases hi
  | sendNoconf | sendConf | arqIssue | arqDecide | seqValidate | rdStep | drain | fcfWord _ => cases hi
  | _ => exact whenFree_of_busy s _ hbusy

section Disabled

variable {s : State}

theorem exec_arqIssue_of_disabled
    (h : ¬ (s.live = true ∧ s.tx.sendActive = true ∧ s.tx.arqState = .idle ∧ s.tx.delayArmed = false)) :
    exec .arqIssue s = .next s := if_neg (mt s.arqIssueEnabled_iff.mp h)

theorem exec_arqDecide_of_disabled
    (h : ¬ (s.tx.sendActive = true ∧ (s.tx.arqState = .confirmed ∨ s.tx.arqState = .failed))) :
    exec .arqDecide s = .next s := if_neg (mt s.arqDecideEnabled_iff.mp h)

theorem exec_drain_of_unasked (h : s.latch.drainReq = false) : exec .drain s = .next s :=
  if_neg (by simp [State.drainEnabled, h])

theorem exec_sendNoconf_of_no_chunk (h : s.latch.chunk = none) : exec .sendNoconf s = .next s :=
  if_neg (by simp [State.sendNoconfEnabled, h])

theorem exec_sendConf_of_no_chunk (h : s.latch.chunk = none) : exec .sendConf s = .next s :=
  if_neg (by simp [State.sendConfEnabled, h])

/-- Between steps the internal operations of a send have nothing to work on. -/
theorem exec_of_clear {i : Instr} (hi : i = .drain ∨ i = .sendNoconf ∨ i = .sendConf) (hlatch : s.latch = .clear) :
    exec i s = .next s := by
  have hreq : s.latch.drainReq = false := by rw [hlatch]; rfl
  have hchunk : s.latch.chunk = none := by rw [hlatch]; rfl
  rcases hi with rfl | rfl | rfl
  · exact exec_drain_of_unasked hreq
  · exact exec_sendNoconf_of_no_chunk hchunk
  · exact exec_sendConf_of_no_chunk hchunk

end Disabled

section KeepsTx

variable {s : State} {k : Host.Outcome State Fault Refusal}

theorem keepsTx_whenFree (hk : Leads k (·.tx = s.tx)) : Leads (whenFree s k) (·.tx = s.tx) :=
  leads_whenFree (fun _ => rfl) fun _ => hk

theorem keepsTx_onUserRing (rb : Byte) (hk : Leads k (·.tx = s.tx)) : Leads (onUserRing rb s k) (·.tx = s.tx) :=
  leads_onUserRing rb (fun _ => rfl) rfl rfl fun _ => hk

/-- The value-type, codec and ring buffer commands (R346). -/
theorem exec_keeps_tx_of_leafOp {i : Instr} (hi : leafOp i = true) : Leads (exec i s) (·.tx = s.tx) := by
  cases i with
  | addrLen _ => exact keepsTx_whenFree (leads_ite _ (fun _ => leads_next rfl) fun _ => leads_next rfl)
  | addrMake _ _ =>
    exact keepsTx_whenFree (leads_ite _ (fun _ => leads_next rfl) fun _ =>
      leads_ite _ (fun _ => leads_next rfl) fun _ => leads_next rfl)
  | fcfUnpack _ => exact keepsTx_whenFree (leads_next rfl)
  | fcfPack _ => exact keepsTx_whenFree (leads_ite _ (fun _ => leads_next rfl) fun _ => leads_next rfl)
  | parse raw =>
    refine keepsTx_whenFree ?_
    cases parse raw <;> exact leads_next rfl
  | build cap fcf seq destPan srcPan destAddr srcAddr payload =>
    refine keepsTx_whenFree ?_
    cases build (operandFrame fcf seq destPan srcPan destAddr srcAddr payload) cap.toNat <;> exact leads_next rfl
  | rbResize rb _ => exact keepsTx_onUserRing rb (leads_ite _ (fun _ => leads_next rfl) fun _ => leads_next rfl)
  | rbWrite rb _ | rbWriteArray rb _ | rbRead rb | rbReadArray rb _ | rbPeek rb | rbAvailable rb
  | rbAvailableForWrite rb | rbIsFull rb | rbIsEmpty rb => exact keepsTx_onUserRing rb (leads_next rfl)
  | _ => cases hi

/-- The receive path: it gives the same outcome with its own transmit registers put in place of themselves (R73). -/
theorem exec_keeps_tx_of_receiveOp {i : Instr} (hi : receiveOp i = true) : Leads (exec i s) (·.tx = s.tx) := by
  intro t ht
  have hreplace : exec i s = thenNext (exec i s) (State.replaceTx s.tx) :=
    exec_replaceTx_of_receiveOp s.tx s i hi
  rw [ht] at hreplace
  have hsame : t = t.replaceTx s.tx := Host.Outcome.next.inj hreplace
  show t.tx = (t.replaceTx s.tx).tx
  exact congrArg State.tx hsame

/-- Every operation but those of the transmit path and the session commands. -/
theorem exec_keeps_tx {i : Instr} (hsend : transmitOp i = false) (hsession : i ≠ .tBegin ∧ i ≠ .tEnd) :
    Leads (exec i s) (·.tx = s.tx) := by
  by_cases hleaf : leafOp i = true
  · exact exec_keeps_tx_of_leafOp hleaf
  by_cases hreceive : receiveOp i = true
  · exact exec_keeps_tx_of_receiveOp hreceive
  cases i with
  | cfgWrite _ _ =>
    exact keepsTx_whenFree (leads_ite _ (fun _ => leads_next rfl) fun _ =>
      leads_ite _ (fun _ => leads_next rfl) fun _ => leads_next rfl)
  | fcfWord _ => exact leads_refused _
  | tBegin => exact absurd rfl hsession.1
  | tEnd => exact absurd rfl hsession.2
  | tWrite _ | tFlush | evTxDone | evTxFailed _ | evAckTimeout | evRetryDelayDone => cases hsend
  | sendNoconf | sendConf | arqIssue | arqDecide | drain => cases hsend
  | tReceive | tRead | tReadBytes _ _ | tAvailable | tMeta => exact absurd rfl hreceive
  | evReadTimeout | evRxEnqueue _ _ _ _ | seqValidate | rdStep => exact absurd rfl hreceive
  | _ => exact absurd rfl hleaf

end KeepsTx

/-! ### What ends the wait for an attempt (R226) -/

/-- A turn that runs no operation leaves the transmit registers alone, but for the reset input. -/
theorem fetchSlot_eq_pass {slot : Slot} {s u : State} (h : fetchSlot slot s = .pass u) :
    slot = .reset ∨ u.tx = s.tx := by
  cases slot with
  | reset => exact .inl rfl
  | command =>
    rw [fetchSlot, fetchCommand] at h
    split at h
    · cases h
      exact .inr rfl
    · split at h
      · cases h
        exact .inr rfl
      · split at h <;> cases h
        exact .inr rfl
  | event =>
    rw [fetchSlot, fetchEvent] at h
    split at h
    · cases h
      exact .inr rfl
    · split at h <;> cases h
      exact .inr rfl
  | internal op =>
    rw [fetchSlot, fetchInternal] at h
    split at h <;> cases h
    exact .inr rfl
  | wire w =>
    rw [fetchSlot, fetchWire] at h
    split at h <;> cases h
    exact .inr rfl

/-- A turn runs an operation of its own port, on a state that differs in its ports only. -/
theorem fetchSlot_eq_run {slot : Slot} {s u : State} {i : Instr} (h : fetchSlot slot s = .run i u) :
    u = s.withIo u.io ∧ (i.port = .event → slot = .event
      ∧ ∃ m ms, s.io.evPort = m :: ms ∧ decodeOn .event m = .accepted i) := by
  have hport {p : Port} {m : List Byte} {j : Instr} (hd : decodeOn p m = .accepted j) : j.port = p :=
    (onlyEncodingsAreAccepted p m j hd).2.1
  cases slot with
  | reset => cases h
  | command =>
    rw [fetchSlot, fetchCommand] at h
    split at h
    · cases h
    · split at h
      · cases h
      · split at h <;> cases h
        exact ⟨rfl, fun hev => by cases (hport ‹_›).symm.trans hev⟩
  | event =>
    rw [fetchSlot, fetchEvent] at h
    split at h
    · cases h
    · split at h <;> cases h
      exact ⟨rfl, fun _ => ⟨rfl, _, _, ‹_›, ‹_›⟩⟩
  | internal op =>
    rw [fetchSlot, fetchInternal] at h
    split at h <;> cases h
    exact ⟨rfl, fun hev => by cases (hport ‹_›).symm.trans hev⟩
  | wire w =>
    rw [fetchSlot, fetchWire] at h
    split at h <;> cases h
    exact ⟨rfl, fun hev => by cases (hport ‹_›).symm.trans hev⟩

/-- A step that changes the transmit registers asserts the reset input, or runs an operation, an event only in its
port's turn. -/
theorem step_changes_tx {s t : State} (h : step s = .next t) (hne : t.tx ≠ s.tx) :
    ∃ turn rest, s.io.schedule = turn :: rest
      ∧ (turn.slot = .reset ∨ ∃ i io, exec i (s.withIo io) = .next t
        ∧ (i.port = .event → turn.slot = .event
          ∧ ∃ m ms, s.io.evPort = m :: ms ∧ decodeOn .event m = .accepted i)) := by
  cases hq : s.io.schedule with
  | nil =>
    rw [step_of_pass (s := s) (t := s) (by simp only [fetch, hq])] at h
    cases h
    exact absurd rfl hne
  | cons turn rest =>
    refine ⟨turn, rest, rfl, ?_⟩
    have hfetch := fetch_of_turn hq
    cases hslot : fetchSlot turn.slot (s.startTurn turn rest) with
    | pass u =>
      rw [step_of_pass (hfetch.trans hslot)] at h
      cases h
      exact (fetchSlot_eq_pass hslot).imp_right fun hu => absurd hu hne
    | run i u =>
      rw [step_of_run (hfetch.trans hslot)] at h
      obtain ⟨hu, hevent⟩ := fetchSlot_eq_run hslot
      rw [hu] at h
      exact .inr ⟨i, u.io, h, hevent⟩

/-- While an attempt is waited for, its send holds the command port. -/
theorem State.Inv.busy_of_waiting {s : State} (hi : s.Inv) (hw : s.tx.arqState = .waiting) : s.appCmd ≠ .none := by
  have hsend := hi.arqSends (by simp [hw])
  rcases hi.sendBusy.mp hsend with h | h <;> simp [h]

/-- Of all operations only the two notifications and the timeout end the wait. -/
theorem exec_ends_wait {s t : State} {i : Instr} (hi : s.Inv) (hw : s.tx.arqState = .waiting)
    (h : exec i s = .next t) (hne : t.tx.arqState ≠ .waiting) :
    i = .evTxDone ∨ (∃ e, i = .evTxFailed e) ∨ i = .evAckTimeout := by
  have unless_kept {o : Host.Outcome State Fault Refusal} (ho : o = .next t)
      (hkeeps : Leads o (·.tx.arqState = .waiting)) {p : Prop} : p := absurd (hkeeps t ho) hne
  have hbusy := hi.busy_of_waiting hw
  cases i with
  | evTxDone => exact .inl rfl
  | evTxFailed e => exact .inr (.inl ⟨e, rfl⟩)
  | evAckTimeout => exact .inr (.inr rfl)
  | evRetryDelayDone => exact unless_kept h (leads_whenEnabled _ (fun _ => hw) fun _ => leads_next hw)
  | arqIssue => exact unless_kept h (leads_of_eq (exec_arqIssue_of_disabled (by simp [hw])) hw)
  | arqDecide => exact unless_kept h (leads_of_eq (exec_arqDecide_of_disabled (by simp [hw])) hw)
  | drain | sendNoconf | sendConf => exact unless_kept h (leads_of_eq (exec_of_clear (by simp) hi.latch) hw)
  | tWrite _ | tFlush | tBegin | tEnd => exact unless_kept h (leads_of_eq (exec_of_busy rfl hbusy) hw)
  | _ => exact unless_kept h ((exec_keeps_tx rfl (by simp)).mono fun _ ht => (congrArg TxRegs.arqState ht).trans hw)

/-- Settles O47: the wait is over after the reset input, or after an operation that ends it, which is an event. -/
theorem onlyReportsEndTheWait : Obligations.OnlyReportsEndTheWait := by
  intro s t hi hw h hne
  obtain ⟨turn, rest, hq, hturn⟩ := step_changes_tx h fun htx => hne ((congrArg TxRegs.arqState htx).trans hw)
  refine ⟨turn, rest, hq, hturn.imp_right ?_⟩
  rintro ⟨i, io, hexec, hevent⟩
  have hreport := exec_ends_wait (s.inv_withIo io hi) hw hexec hne
  have hport : i.port = .event := by rcases hreport with rfl | ⟨e, rfl⟩ | rfl <;> rfl
  obtain ⟨hslot, m, ms, hm, hd⟩ := hevent hport
  exact ⟨hslot, m, ms, i, hm, hd, hreport⟩

/-! ### When `OUT_SEQ` changes (R231) -/

/-- How the operation `i` may change `OUT_SEQ` from `s` to `t`. -/
def SeqChange (i : Instr) (s t : State) : Prop :=
  t.tx.outSeq = s.tx.outSeq
  ∨ (t.tx.outSeq = s.tx.outSeq + 1
    ∧ (i = .arqDecide ∧ s.tx.sendActive = true ∧ t.tx.sendActive = false
      ∨ ((∃ b, i = .tWrite b) ∨ i = .tFlush) ∧ s.cfg.fcfTmpl.getLsbD 5 = false
        ∧ ∃ out, t.io.txCalls = s.io.txCalls ++ [⟨out, true⟩]))
  ∨ ((i = .tBegin ∨ i = .tEnd) ∧ t.tx.outSeq = 0)

section OutSeq

variable {s : State}

/-- `OUT_SEQ` of a send that is set up waits for its end; an unconfirmed one advances it when the radio takes the
frame. -/
theorem seqChange_of_drainAndSend {i : Instr} (hi : (∃ b, i = .tWrite b) ∨ i = .tFlush) (s : State) (c : AppCmd)
    (results : List Byte) : Leads (s.drainAndSend c results) (SeqChange i s) := by
  by_cases hack : s.ackRequested = true
  · exact leads_of_eq (s.drainAndSend_confirmed c results hack) (.inl rfl)
  · have hack : s.ackRequested = false := by simpa using hack
    refine leads_of_eq (s.drainAndSend_unconfirmed c results hack) ?_
    by_cases ha : s.io.txAnswer = true
    · rw [State.sendOnce_of_taken (s := s.framed _) rfl ha]
      exact .inr (.inl ⟨rfl, .inr ⟨hi, hack, _, rfl⟩⟩)
    · have ha : s.io.txAnswer = false := by simpa using ha
      rw [State.sendOnce_of_refused (s := s.framed _) rfl ha]
      exact .inl rfl

theorem seqChange_of_tWrite (b : Byte) : Leads (exec (.tWrite b) s) (SeqChange (.tWrite b) s) :=
  leads_whenLive (fun _ => .inl rfl) (fun _ => .inl rfl) fun _ _ =>
    leads_ite _ (fun _ => leads_next (.inl rfl)) fun _ =>
      leads_ite _ (fun _ => seqChange_of_drainAndSend (.inl ⟨b, rfl⟩) (s.setTxb (s.tx.txb.write b)) _ _) fun _ =>
        leads_next (.inl rfl)

theorem seqChange_of_tFlush : Leads (exec .tFlush s) (SeqChange .tFlush s) :=
  leads_whenLive (fun _ => .inl rfl) (fun _ => .inl rfl) fun _ _ =>
    leads_ite _ (fun _ => leads_next (.inl rfl)) fun _ => seqChange_of_drainAndSend (.inr rfl) s _ _

theorem seqChange_of_arqIssue : Leads (exec .arqIssue s) (SeqChange .arqIssue s) :=
  leads_whenEnabled _ (fun _ => .inl rfl) fun _ => leads_next (by split <;> exact .inl rfl)

/-- The retry decision advances `OUT_SEQ` exactly where it ends the send (R229). -/
theorem seqChange_of_arqDecide : Leads (exec .arqDecide s) (SeqChange .arqDecide s) := by
  refine leads_whenEnabled _ (fun _ => .inl rfl) fun henabled => leads_next ?_
  obtain ⟨hsend, -⟩ := s.arqDecideEnabled_iff.mp henabled
  split
  · rw [State.confirmSend, State.completeSend_eq]
    exact .inr (.inl ⟨rfl, .inl ⟨rfl, hsend, rfl⟩⟩)
  · by_cases hleft : s.tx.retriesLeft ≤ 1
    · rw [State.failAttempt_of_exhausted hleft, State.completeSend_eq]
      exact .inr (.inl ⟨rfl, .inl ⟨rfl, hsend, rfl⟩⟩)
    · rw [State.failAttempt_of_left (by omega)]
      exact .inl rfl

theorem exec_seqChange (hi : s.Inv) (i : Instr) : Leads (exec i s) (SeqChange i s) := by
  cases i with
  | tWrite b => exact seqChange_of_tWrite b
  | tFlush => exact seqChange_of_tFlush
  | tBegin =>
    exact leads_whenFree (fun _ => .inl rfl) fun _ =>
      leads_ite _ (fun _ => leads_next (.inl rfl)) fun _ => leads_next (.inr (.inr ⟨.inl rfl, rfl⟩))
  | tEnd =>
    exact leads_whenLive (fun _ => .inl rfl) (fun _ => .inl rfl) fun _ _ =>
      leads_next (.inr (.inr ⟨.inr rfl, rfl⟩))
  | evTxDone | evTxFailed _ => exact leads_next (by split <;> exact .inl rfl)
  | evAckTimeout | evRetryDelayDone => exact leads_whenEnabled _ (fun _ => .inl rfl) fun _ => leads_next (.inl rfl)
  | arqIssue => exact seqChange_of_arqIssue
  | arqDecide => exact seqChange_of_arqDecide
  | drain | sendNoconf | sendConf => exact leads_of_eq (exec_of_clear (by simp) hi.latch) (.inl rfl)
  | _ => exact (exec_keeps_tx rfl (by simp)).mono fun _ ht => .inl (congrArg TxRegs.outSeq ht)

end OutSeq

/-- Settles O48: `SeqChange` is the statement's three cases, and every operation stays within them. -/
theorem outSeqAdvances : Obligations.OutSeqAdvances := fun i _ t hi h => exec_seqChange hi i t h

end Sys2Proof.Machine

/-! ## Proofs: the receive side (44_transport_rx.md)

What the receive step comes to is said once for each thing it can meet: a pending frame, an empty queue, a frame that
does not parse, a duplicate, and a frame that is accepted and then fits or is held. `T_RECEIVE` answers that outcome
and a turn of the read loop goes on from it, so both, and the count of the bytes on their way, are read off these
equations. -/

namespace Sys2Proof.Machine

/-! ### RXB takes a payload, gives bytes to a read (R258, R265) -/

section Rxb

variable {rb : RingBuffer} {data : List Byte}

/-- With room for all of it a bulk write appends the data whole (R184). -/
theorem RingBuffer.appended_of_fits (hw : rb.Wf) (hfit : data.length ≤ rb.cap - rb.count) :
    rb.Appended (rb.writeArray data) data := by
  have h := rb.appended_writeArray data hw
  rwa [Nat.min_eq_left hfit, List.take_length] at h

theorem RingBuffer.content_of_fits (hw : rb.Wf) (hfit : data.length ≤ rb.cap - rb.count) :
    (rb.writeArray data).content = rb.content ++ data := by
  rw [rb.content_writeArray data hw, RingBuffer.accepts, Nat.min_eq_left hfit, List.take_length]

/-- A bulk read takes no more than there is (R187). -/
theorem RingBuffer.front_eq_take_holds (rb : RingBuffer) (n : Nat) : rb.front n = rb.content.take (rb.holds n) := by
  rw [RingBuffer.front_eq, RingBuffer.holds, ← rb.length_content]
  exact List.take_eq_take_min

end Rxb

/-! ### Results and records (R114, R306) -/

theorem countedBytes_eq (bs : List Byte) :
    countedBytes bs = BitVec.ofNat 8 bs.length :: BitVec.ofNat 8 (bs.length / 256) :: bs := rfl

theorem State.noted_nil (s : State) : s.noted [] = s := by
  rw [State.noted, List.append_nil]

/-- Records go out in the order they were made, whatever is held between them. -/
theorem State.noted_holdPending_noted (s : State) (payload : List Byte) (ds es : List Diag) :
    ((s.noted ds).holdPending payload).noted es = (s.holdPending payload).noted (ds ++ es) := by
  simp only [State.noted, State.holdPending, List.append_assoc]

/-! ### Sequence validation (R254 to R257) -/

section Sequence

variable {s : State} {rx : RxRegs} {f : Frame}

theorem seqRecord_of_unnumbered (h : f.fcf.getLsbD 8 = true) : seqRecord rx f = rx := if_pos h

theorem seqRecord_of_numbered (h : f.fcf.getLsbD 8 = false) :
    seqRecord rx f = { rx with lastSeqValid := true, lastSeq := f.seq } :=
  if_neg (ne_true_of_eq_false h)

/-- `s` after `SEQ_VALIDATE` has handed back the verdict `v` and written no register. -/
def State.judged (s : State) (v : Verdict) : State :=
  { s with latch := { s.latch with rxFrame := none, verdict := some v } }

theorem exec_seqValidate_of_latch (h : s.latch.rxFrame = some f) : exec .seqValidate s = .next (s.validateSeq f) := by
  simp only [exec, execSeqValidate, h]

theorem State.validateSeq_of_duplicate (h : seqVerdict s.rx f = .duplicate) :
    s.validateSeq f = (s.judged .duplicate).noted [⟨.duplicate, [f.seq.toNat]⟩] := by
  rw [State.validateSeq, h, seqRecord_of_duplicate s.rx f h, seqDiags_of_duplicate s.rx f h]
  rfl

theorem State.validateSeq_of_accept (h : seqVerdict s.rx f ≠ .duplicate) :
    s.validateSeq f = State.noted { s.judged .accept with rx := seqRecord s.rx f } (seqDiags s.rx f) := by
  rw [State.validateSeq, seqVerdict_accept s.rx f h]
  rfl

/-- An accepted frame whose number leaves no gap is not noted. -/
theorem State.validateSeq_of_expected (h : seqVerdict s.rx f ≠ .duplicate)
    (hgap : ¬ (f.fcf.getLsbD 8 = false ∧ s.rx.lastSeqValid = true ∧ f.seq ≠ s.rx.lastSeq + 1)) :
    s.validateSeq f = { s.judged .accept with rx := seqRecord s.rx f } := by
  rw [State.validateSeq_of_accept h, seqDiags_of_accept s.rx f h, if_neg hgap, State.noted_nil]

end Sequence

/-- Settles O52: a duplicate is noted and not recorded; what is accepted is noted where its number leaves a gap. -/
theorem seqValidateResult : Obligations.SeqValidateResult := by
  refine ⟨decodeEncodeAgree .seqValidate rfl, fun s f hframe => ?_⟩
  rw [exec_seqValidate_of_latch hframe]
  have hdup := seqVerdict_iff s.rx f
  refine ⟨fun hnone => congrArg _ ?_, fun hnum hfirst => congrArg _ ?_, fun hnum hlast =>
    ⟨fun hsame => congrArg _ ?_, fun hnext => congrArg _ ?_, fun hother hskip => congrArg _ ?_⟩⟩
  · rw [State.validateSeq_of_expected (by simp [hdup, hnone]) (by simp [hnone]), seqRecord_of_unnumbered hnone]
    rfl
  · rw [State.validateSeq_of_expected (by simp [hdup, hfirst]) (by simp [hfirst]), seqRecord_of_numbered hnum]
    rfl
  · exact State.validateSeq_of_duplicate (hdup.mpr ⟨hnum, hlast, hsame⟩)
  · rw [State.validateSeq_of_expected (by simp [hdup, hnext]) (by simp [hnext]), seqRecord_of_numbered hnum]
    rfl
  · have hnew : seqVerdict s.rx f ≠ .duplicate := by simp [hdup, hother]
    rw [State.validateSeq_of_accept hnew, seqDiags_of_accept s.rx f hnew, if_pos ⟨hnum, hlast, hskip⟩,
      seqRecord_of_numbered hnum]
    rfl

/-! ### The outcomes of the receive step (R251 to R260) -/

/-- `s` after the parsed frame `f` of `fr` was accepted: its metadata latched, its number recorded, a gap noted. -/
def State.accepted (s : State) (fr : InFrame) (f : Frame) : State :=
  State.noted { s.latchMeta fr with rx := seqRecord (s.latchMeta fr).rx f } (seqDiags s.rx f)

section Outcomes

variable {s : State} {fr : InFrame} {f : Frame} {rest : List InFrame}

theorem State.pullFrame_of_empty (hq : s.env.inq = []) :
    s.pullFrame = { s with io := { s.io with rxCalls := s.io.rxCalls + 1 } } := by
  rw [State.pullFrame, hq, List.tail_nil, ← hq]

theorem State.pullFrame_of_cons (hq : s.env.inq = fr :: rest) :
    s.pullFrame = { s with
      env := { s.env with inq := rest }, io := { s.io with rxCalls := s.io.rxCalls + 1 } } := by
  rw [State.pullFrame, hq, List.tail_cons]

/-- Draining that empties the pending frame ends the pending state (R259). -/
theorem State.drainPending_of_all (h : s.rx.pendOff + s.rx.pendFits = s.rx.pendLen) :
    s.drainPending = ⟨{ s with rx := { s.rx with
      rxb := s.rx.rxb.writeArray (s.rx.pendBytes s.rx.pendFits), pendOff := s.rx.pendOff + s.rx.pendFits,
      pendValid := false } }, .ok, true⟩ := s.drainPending_eq.trans (if_pos h)

theorem State.drainPending_of_left (h : s.rx.pendOff + s.rx.pendFits ≠ s.rx.pendLen) :
    s.drainPending = ⟨{ s with rx := { s.rx with
      rxb := s.rx.rxb.writeArray (s.rx.pendBytes s.rx.pendFits), pendOff := s.rx.pendOff + s.rx.pendFits } },
      .backpressure, decide (0 < s.rx.pendFits)⟩ := s.drainPending_eq.trans (if_neg h)

/-- What draining writes fits in RXB. -/
theorem State.length_pendBytes_le (s : State) :
    (s.rx.pendBytes s.rx.pendFits).length ≤ s.rx.rxb.cap - s.rx.rxb.count :=
  (Memory.length_readBytes ..).trans_le (Nat.min_le_left ..)

theorem State.handleFrame_of_duplicate (hlatch : s.latch = .clear) (hparse : parse fr.raw = some f)
    (h : seqVerdict s.rx f = .duplicate) :
    s.handleFrame fr = ⟨(s.latchMeta fr).noted [⟨.duplicate, [f.seq.toNat]⟩], .duplicate, false⟩ := by
  rw [s.handleFrame_of_parsed fr f hparse, (s.latchMeta fr).acceptFrame_of_duplicate f h,
    (s.latchMeta fr).seqDone_of_clear hlatch]

@[simp] theorem State.accepted_rxb : (s.accepted fr f).rx.rxb = s.rx.rxb := seqRecord_rxb ..

@[simp] theorem State.accepted_pendBuf : (s.accepted fr f).rx.pendBuf = s.rx.pendBuf := seqRecord_pendBuf ..

@[simp] theorem State.accepted_pendValid : (s.accepted fr f).rx.pendValid = s.rx.pendValid := seqRecord_pendValid ..

section Accepted

variable (hlatch : s.latch = .clear) (hparse : parse fr.raw = some f) (haccept : seqVerdict s.rx f ≠ .duplicate)

include hlatch hparse haccept

theorem State.handleFrame_of_accept : s.handleFrame fr = (s.accepted fr f).deliver f.payload := by
  rw [s.handleFrame_of_parsed fr f hparse, (s.latchMeta fr).acceptFrame_of_accept f haccept,
    (s.latchMeta fr).seqDone_of_clear hlatch]
  rfl

theorem State.handleFrame_of_fits (hfit : f.payload.length ≤ s.rx.rxb.cap - s.rx.rxb.count) :
    s.handleFrame fr = ⟨(s.accepted fr f).setRxb (s.rx.rxb.writeArray f.payload), .ok, true⟩ := by
  rw [State.handleFrame_of_accept hlatch hparse haccept, State.deliver_of_fits _ _ (by rwa [State.accepted_rxb]),
    State.accepted_rxb]

theorem State.handleFrame_of_full (hfull : s.rx.rxb.cap - s.rx.rxb.count < f.payload.length) :
    s.handleFrame fr = ⟨((s.accepted fr f).holdPending f.payload).noted
      [⟨.backpressure, [f.payload.length, s.rx.rxb.cap - s.rx.rxb.count]⟩], .backpressure, false⟩ := by
  rw [State.handleFrame_of_accept hlatch hparse haccept, State.deliver_of_full _ _ (by rwa [State.accepted_rxb]),
    State.accepted_rxb]

end Accepted

end Outcomes

/-! ### `T_RECEIVE` (R251, R259) -/

section Receive

variable {s : State} {fr : InFrame} {rest : List InFrame} (hfree : s.appCmd = .none)
  (hlive : s.live = true)

include hfree hlive

theorem exec_tReceive_of_step {r : Received} (h : s.receiveStep = r) :
    exec .tReceive s = .next (r.state.replied [r.status.code, flagByte r.progress]) :=
  h ▸ whenLive_of_live s _ hfree hlive

/-- With no frame pending the oldest frame waiting is pulled and handled. -/
theorem exec_tReceive_of_handled (hpend : s.rx.pendValid = false) (hq : s.env.inq = fr :: rest) {r : Received}
    (h : s.pullFrame.handleFrame fr = r) :
    exec .tReceive s = .next (r.state.replied [r.status.code, flagByte r.progress]) :=
  exec_tReceive_of_step hfree hlive ((s.receiveStep_of_frame fr rest hpend hq).trans h)

end Receive

/-- Settles O51: draining writes as many of the bytes pending as there is room for, so all that it writes fits. -/
theorem pendingFrameDrains : Obligations.PendingFrameDrains := by
  intro s hi hfree
  refine ⟨whenLive_of_dead s _ hfree, fun hlive hpend => ?_⟩
  intro k bytes
  have hbytes : bytes = s.rx.pendBytes s.rx.pendFits := (Memory.readBytes_eq ..).symm
  have hfit := s.length_pendBytes_le
  have hstep := s.receiveStep_of_pending hpend
  rw [hbytes]
  refine ⟨_, RingBuffer.appended_of_fits hi.rxb hfit, RingBuffer.content_of_fits hi.rxb hfit, fun hall => ?_,
    fun hleft => ?_⟩
  · exact exec_tReceive_of_step hfree hlive (hstep.trans (State.drainPending_of_all hall))
  · rw [exec_tReceive_of_step hfree hlive (hstep.trans (State.drainPending_of_left hleft.ne)), flagByte_decide]
    rfl

/-- Settles O50: the outcomes of the receive step one by one, on the frame that `receiveNext` returns. -/
theorem tReceiveResult : Obligations.TReceiveResult := by
  intro s hi hfree hlive hpend
  refine ⟨fun hq => ?_, fun fr rest hq => ?_⟩
  · rw [exec_tReceive_of_step hfree hlive (s.receiveStep_of_empty hpend hq), State.pullFrame_of_empty hq]
    rfl
  intro pulled
  have hpulled : s.pullFrame = pulled := State.pullFrame_of_cons hq
  refine ⟨fun hparse => ?_, fun f hparse => ?_⟩
  · rw [exec_tReceive_of_handled hfree hlive hpend hq (s.pullFrame.handleFrame_of_malformed fr hparse), hpulled]
    rfl
  intro latched numbered recorded gap
  have hdup := seqVerdict_iff s.rx f
  refine ⟨fun hsame => ?_, fun hnew => ?_⟩
  · rw [exec_tReceive_of_handled hfree hlive hpend hq
      (State.handleFrame_of_duplicate hi.latch hparse (hdup.mpr hsame)), hpulled]
    rfl
  have haccept : seqVerdict s.rx f ≠ .duplicate := mt hdup.mp hnew
  have haccepted : s.pullFrame.accepted fr f = State.noted { pulled with rx := recorded } gap := by
    rw [State.accepted, hpulled]
    exact congrArg _ (seqDiags_of_accept s.rx f haccept)
  refine ⟨fun hfit => ?_, fun hfull => ?_⟩
  · refine ⟨_, RingBuffer.appended_of_fits hi.rxb hfit, RingBuffer.content_of_fits hi.rxb hfit, ?_⟩
    rw [exec_tReceive_of_handled hfree hlive hpend hq
      (State.handleFrame_of_fits hi.latch hparse haccept hfit), haccepted]
    rfl
  · have hbuf : recorded.pendBuf = s.rx.pendBuf := seqRecord_pendBuf latched f
    refine ⟨_, s.rx.pendBuf.stored_writeBytes f.payload hi.pendBuf.1, ?_⟩
    rw [exec_tReceive_of_handled hfree hlive hpend hq
      (State.handleFrame_of_full hi.latch hparse haccept hfull), haccepted, ← hbuf]
    exact congrArg (fun t => Host.Outcome.next (State.replied t _)) (State.noted_holdPending_noted ..)

/-! ### Queries and the radio's queue (R263, R268, R269) -/

/-- Settles O56: each query is an answer from the registers, behind the gate of a live session. -/
theorem receiveQueriesAndQueue : Obligations.ReceiveQueriesAndQueue := by
  refine ⟨decodeEncodeAgree .tAvailable rfl, decodeEncodeAgree .tMeta rfl, fun _ _ _ _ _ => rfl, fun s hfree =>
    ⟨fun hdead => ⟨whenLive_of_dead s _ hfree hdead, whenLive_of_dead s _ hfree hdead⟩, fun hlive => ?_⟩⟩
  have hmeta : exec .tMeta s = _ := whenLive_of_live s _ hfree hlive
  refine ⟨whenLive_of_live s _ hfree hlive, fun hnone => ?_, fun hsome => ?_⟩
  · rw [hmeta, hnone]
    rfl
  · rw [hmeta, hsome]
    rfl

/-! ### A read begins (R264, R265) -/

/-- The operands of `T_READ_BYTES` are read back from their bytes (R111). -/
theorem decodeOn_tReadBytes (n0 n1 : Byte) (ts : List Byte) (h : ts.length = 4) :
    decodeOn .command (0x37 :: n0 :: n1 :: ts)
      = .accepted (.tReadBytes (le16 n0 n1) (BitVec.ofNat 32 (leNat ts))) := by
  have hd := decodeEncodeAgree (.tReadBytes (le16 n0 n1) (BitVec.ofNat 32 (leNat ts))) rfl
  rwa [encode, leBytes_ofNat_leNat h, halfBytes_le16] at hd

section Reads

variable {s : State} {n : Nat}

/-- The first step of a read in terms of the abstract content. -/
theorem State.beginRead_eq (s : State) (n : Nat) :
    s.beginRead n = { s with
      rx := { s.rx with rxb := s.rx.rxb.without (min n s.rx.rxb.count) }
      rd := { s.rd with
        want := n, expired := false, data := s.rx.rxb.content.take (min n s.rx.rxb.count),
        got := min n s.rx.rxb.count } } := by
  rw [State.beginRead, RingBuffer.consume_eq_without, RingBuffer.front_eq_take_holds]
  rfl

theorem State.startRead_of_enough (h : n ≤ s.rx.rxb.count) (timeout : Word32) :
    s.startRead n timeout = (s.beginRead n).respond .ok (countedBytes (s.beginRead n).rd.data) :=
  if_pos (Nat.min_eq_left h)

theorem State.startRead_of_short (h : s.rx.rxb.count < n) (timeout : Word32) :
    s.startRead n timeout = (s.beginRead n).waitForBytes timeout :=
  if_neg ((Nat.min_le_right ..).trans_lt h).ne

end Reads

/-- Settles O54: a read begins with what RXB holds, and waits where that is short. -/
theorem readStarts : Obligations.ReadStarts := by
  refine ⟨decodeEncodeAgree .tRead rfl, fun n0 n1 t0 t1 t2 t3 => decodeOn_tReadBytes n0 n1 [t0, t1, t2, t3] rfl,
    fun s n timeout hfree i hread => ?_⟩
  have hexec : exec i s = whenLive s (.next (s.startRead n.toNat timeout)) := by
    rcases hread with rfl | ⟨rfl, rfl, rfl⟩ <;> rfl
  rw [hexec]
  refine ⟨whenLive_of_dead s _ hfree, fun hlive henough => ?_, fun hlive hshort => ?_⟩
  · have hlen : (s.rx.rxb.content.take n.toNat).length = n.toNat := by
      rw [List.length_take, RingBuffer.length_content, Nat.min_eq_left henough]
    rw [whenLive_of_live s _ hfree hlive, State.startRead_of_enough henough, State.beginRead_eq,
      Nat.min_eq_left henough, countedBytes_eq, hlen]
    rfl
  · have hall : s.rx.rxb.content.take s.rx.rxb.count = s.rx.rxb.content := List.take_of_length_le (by simp)
    rw [whenLive_of_live s _ hfree hlive, State.startRead_of_short hshort, State.beginRead_eq,
      Nat.min_eq_right hshort.le, hall]
    rfl

/-! ### A turn of the read loop (R266) -/

section Turn

variable {s : State}

/-- The receive step leaves the read alone (R73). -/
theorem State.receiveStep_rd (s : State) : s.receiveStep.state.rd = s.rd := by
  rw [State.receiveStep_frame]
  rfl

/-- Collecting in terms of the abstract content. -/
theorem State.collect_eq (s : State) :
    s.collect = { s with
      rx := { s.rx with rxb := s.rx.rxb.without (min (s.rd.want - s.rd.got) s.rx.rxb.count) }
      rd := { s.rd with
        data := s.rd.data ++ s.rx.rxb.content.take (min (s.rd.want - s.rd.got) s.rx.rxb.count)
        got := s.rd.got + min (s.rd.want - s.rd.got) s.rx.rxb.count } } := by
  rw [State.collect, RingBuffer.consume_eq_without, RingBuffer.front_eq_take_holds]
  rfl

theorem State.receiveStep_collect_want (s : State) : s.receiveStep.state.collect.rd.want = s.rd.want := by
  rw [State.collect_rd, State.receiveStep_rd]

theorem exec_rdStep_of_expired (hactive : s.rd.active = true) (hexp : s.rd.expired = true) :
    exec .rdStep s = .next s.finishRead :=
  (if_pos hactive).trans (congrArg _ (if_pos hexp))

/-- Within the timeout a turn receives, collects, and ends the read where it has all it wants. -/
theorem exec_rdStep_of_waiting (hactive : s.rd.active = true) (hexp : s.rd.expired = false) :
    exec .rdStep s = .next
      (if s.receiveStep.state.collect.rd.got = s.rd.want then s.receiveStep.state.collect.finishRead
        else s.receiveStep.state.collect) := by
  rw [← s.receiveStep_collect_want]
  exact (if_pos hactive).trans (congrArg _ (if_neg (by simp [hexp])))

/-- The receive step of a read is that of `T_RECEIVE`, on the same registers. -/
theorem exec_tReceive_of_freed (s : State) :
    exec .tReceive { s with live := true, appCmd := .none }
      = .next (State.replied { s.receiveStep.state with live := true, appCmd := .none }
          [s.receiveStep.status.code, flagByte s.receiveStep.progress]) := by
  rw [exec_tReceive_of_step (s := { s with live := true, appCmd := .none }) rfl rfl
    (s.receiveStep_over { s with live := true, appCmd := .none }), State.receiveStep_frame]
  rfl

end Turn

/-- Settles O55: the three ways a turn goes, on the state the receive step leaves. -/
theorem rdStepResult : Obligations.RdStepResult := by
  refine ⟨decodeEncodeAgree .rdStep rfl, fun s hactive => ?_⟩
  intro response r k data
  have hcollect : r.collect = { r with
      rx := { r.rx with rxb := r.rx.rxb.without k }, rd := { s.rd with data := data, got := s.rd.got + k } } := by
    rw [State.collect_eq, s.receiveStep_rd]
  have hgot : r.collect.rd.got = s.rd.got + k := by rw [hcollect]
  refine ⟨⟨_, _, exec_tReceive_of_freed s⟩, exec_rdStep_of_expired hactive, fun hexp hall => ?_,
    fun hexp hshort => ?_⟩
  · rw [exec_rdStep_of_waiting hactive hexp, if_pos (hgot.trans hall), hcollect]
    rfl
  · rw [exec_rdStep_of_waiting hactive hexp, if_neg (hgot.trans_ne hshort), hcollect]

/-! ### The bytes on their way (R270) -/

section Backlog

variable {s : State} {fr : InFrame} {f : Frame} {rest : List InFrame}

theorem RxRegs.pendingRest_of_none {r : RxRegs} (h : r.pendValid = false) : r.pendingRest = [] := by
  rw [RxRegs.pendingRest, h]
  rfl

theorem RxRegs.backlog_of_none {r : RxRegs} (h : r.pendValid = false) : r.backlog = r.rxb.content := by
  rw [RxRegs.backlog, RxRegs.pendingRest_of_none h, List.append_nil]

/-- The bytes pending are the next `k` of them and what is left after those. -/
theorem RxRegs.pendingRest_eq_append {r : RxRegs} {k : Nat} (h : r.pendValid = true)
    (hk : k ≤ r.pendLen - r.pendOff) :
    r.pendingRest = r.pendBytes k ++ r.pendBuf.readBytes (r.pendOff + k) (r.pendLen - (r.pendOff + k)) := by
  have hlen : r.pendLen - r.pendOff = k + (r.pendLen - (r.pendOff + k)) := by omega
  rw [RxRegs.pendingRest, if_pos h, hlen, Memory.readBytes_append]
  rfl

/-- Draining moves the pending bytes into RXB and loses none (R259). -/
theorem State.drainPending_backlog (hw : s.rx.rxb.Wf) (hpend : s.rx.pendValid = true) :
    s.drainPending.state.rx.backlog = s.rx.backlog := by
  have hsplit : s.rx.pendingRest = s.rx.pendBytes s.rx.pendFits
      ++ s.rx.pendBuf.readBytes (s.rx.pendOff + s.rx.pendFits) (s.rx.pendLen - (s.rx.pendOff + s.rx.pendFits)) :=
    RxRegs.pendingRest_eq_append hpend (Nat.min_le_right ..)
  rw [RxRegs.backlog, RxRegs.backlog, hsplit, ← List.append_assoc,
    ← RingBuffer.content_of_fits hw s.length_pendBytes_le]
  by_cases hall : s.rx.pendOff + s.rx.pendFits = s.rx.pendLen
  · rw [State.drainPending_of_all hall, hall, Nat.sub_self]
    rfl
  · rw [State.drainPending_of_left hall]
    exact congrArg _ (if_pos hpend)

/-- A payload joins the bytes on their way whole: in RXB, or as the pending frame (R258). -/
theorem State.deliver_backlog (hw : s.rx.rxb.Wf) (hbuf : s.rx.pendBuf.wf = true) (hpend : s.rx.pendValid = false)
    (payload : List Byte) : (s.deliver payload).state.rx.backlog = s.rx.backlog ++ payload := by
  rw [RxRegs.backlog_of_none hpend]
  by_cases hfit : payload.length ≤ s.rx.rxb.cap - s.rx.rxb.count
  · rw [s.deliver_of_fits payload hfit, ← RingBuffer.content_of_fits hw hfit]
    exact RxRegs.backlog_of_none hpend
  · rw [s.deliver_of_full payload (by omega)]
    exact congrArg (s.rx.rxb.content ++ ·) (s.rx.pendBuf.readBytes_writeBytes 0 payload hbuf)

/-- The payload of a frame that is accepted joins them. -/
theorem State.accepted_deliver_backlog (hw : s.rx.rxb.Wf) (hbuf : s.rx.pendBuf.wf = true)
    (hpend : s.rx.pendValid = false) :
    ((s.accepted fr f).deliver f.payload).state.rx.backlog = s.rx.backlog ++ f.payload := by
  have hpend' : (s.accepted fr f).rx.pendValid = false := State.accepted_pendValid.trans hpend
  rw [State.deliver_backlog (State.accepted_rxb.symm ▸ hw) (State.accepted_pendBuf.symm ▸ hbuf) hpend',
    RxRegs.backlog_of_none hpend', RxRegs.backlog_of_none hpend, State.accepted_rxb]

theorem State.incoming_of_pending (h : s.rx.pendValid = true) : s.incoming = [] := if_pos h

theorem State.incoming_of_empty (h : s.rx.pendValid = false) (hq : s.env.inq = []) : s.incoming = [] := by
  simp [State.incoming, h, hq]

theorem State.incoming_of_malformed (h : s.rx.pendValid = false) (hq : s.env.inq = fr :: rest)
    (hparse : parse fr.raw = none) : s.incoming = [] := by
  simp [State.incoming, h, hq, hparse]

theorem State.incoming_of_parsed (h : s.rx.pendValid = false) (hq : s.env.inq = fr :: rest)
    (hparse : parse fr.raw = some f) :
    s.incoming = if seqVerdict s.rx f = .duplicate then [] else f.payload := by
  simp only [seqVerdict_iff]
  simp [State.incoming, h, hq, hparse, and_assoc]

/-- The receive step adds the payload it accepts to the bytes on their way, and nothing else (R251, R270). -/
theorem State.receiveStep_backlog (hi : s.Inv) : s.receiveStep.state.rx.backlog = s.rx.backlog ++ s.incoming := by
  by_cases hpend : s.rx.pendValid = true
  · rw [s.receiveStep_of_pending hpend, State.drainPending_backlog hi.rxb hpend, State.incoming_of_pending hpend,
      List.append_nil]
  have hpend : s.rx.pendValid = false := by simpa using hpend
  cases hq : s.env.inq with
  | nil =>
    rw [s.receiveStep_of_empty hpend hq, State.incoming_of_empty hpend hq, List.append_nil]
    rfl
  | cons fr rest =>
    rw [s.receiveStep_of_frame fr rest hpend hq]
    cases hparse : parse fr.raw with
    | none =>
      rw [State.handleFrame_of_malformed _ fr hparse, State.incoming_of_malformed hpend hq hparse, List.append_nil]
      rfl
    | some f =>
      rw [State.incoming_of_parsed hpend hq hparse]
      by_cases hdup : seqVerdict s.rx f = .duplicate
      · rw [State.handleFrame_of_duplicate (s := s.pullFrame) hi.latch hparse hdup, if_pos hdup, List.append_nil]
        rfl
      · rw [State.handleFrame_of_accept (s := s.pullFrame) hi.latch hparse hdup, if_neg hdup]
        exact State.accepted_deliver_backlog (s := s.pullFrame) hi.rxb hi.pendBuf.1 hpend

/-- Collecting moves bytes from the front of RXB to the data collected (R266). -/
theorem State.collect_backlog (s : State) :
    s.collect.rd.data ++ s.collect.rx.backlog = s.rd.data ++ s.rx.backlog := by
  rw [RxRegs.backlog, RxRegs.backlog, s.rx.rxb.content_eq_front_append (s.rd.want - s.rd.got), State.collect_rd,
    State.collect_rx, List.append_assoc, List.append_assoc]
  rfl

/-- So does the first step of a read, from no data (R265). -/
theorem State.beginRead_backlog (s : State) (n : Nat) :
    (s.beginRead n).rd.data ++ (s.beginRead n).rx.backlog = s.rx.backlog := by
  rw [RxRegs.backlog, RxRegs.backlog, s.rx.rxb.content_eq_front_append n, State.beginRead_rd, State.beginRead_rx,
    List.append_assoc]
  rfl

/-- A read that begins has these bytes, whether it is answered or waits. -/
theorem State.startRead_backlog (s : State) (n : Nat) (timeout : Word32) :
    (s.startRead n timeout).rd.data ++ (s.startRead n timeout).rx.backlog = s.rx.backlog := by
  unfold State.startRead
  split <;> exact s.beginRead_backlog n

end Backlog

/-- Settles O53: the receive step adds what it accepts, and reads move bytes from the front only. -/
theorem receiveKeepsEveryByte : Obligations.ReceiveKeepsEveryByte := by
  intro s hi hlive
  refine ⟨fun hfree => ?_, fun n timeout hfree => ?_, fun hactive hexp => ?_, fun hactive hexp => ?_⟩
  · exact ⟨_, exec_tReceive_of_step hfree hlive rfl, State.receiveStep_backlog hi,
      congrArg RdRegs.data s.receiveStep_rd⟩
  · exact ⟨_, whenLive_of_live s _ hfree hlive, s.startRead_backlog n.toNat timeout⟩
  · refine ⟨_, exec_rdStep_of_waiting hactive hexp, ?_⟩
    have hturn := s.receiveStep.state.collect_backlog
    rw [s.receiveStep_rd, State.receiveStep_backlog hi, ← List.append_assoc] at hturn
    split <;> exact hturn
  · exact ⟨_, exec_rdStep_of_expired hactive hexp, rfl, rfl⟩

end Sys2Proof.Machine

/-! ## Proofs: sequencing and access (50_sequencing_and_access.md)

What an operation looks at before it acts is read off the gate in front of it. The gates of the value-type, codec and
`RB_` commands pass on a replacement of all state but `APP_CMD`, UB and the ports, the `T_` commands stand behind the
gate of a live session, and a step whose enabling condition fails stops at its gate. -/

namespace Sys2Proof.Machine

/-! ### Commands that do not look at the session (R346) -/

/-- The state `a` with the `APP_CMD`, UB and ports of `s`: all that a command of the groups 0x0_, 0x1_ and 0x2_ may
read or write. -/
def State.withLeaf (a s : State) : State := { a with appCmd := s.appCmd, ub := s.ub, io := s.io }

section Leaf

variable {a s : State} {k k' : Host.Outcome State Fault Refusal}

theorem whenFree_withLeaf (hk : k' = thenNext k a.withLeaf) :
    whenFree (a.withLeaf s) k' = thenNext (whenFree s k) a.withLeaf := thenNext_ite (s.appBusy = true) rfl hk

theorem onUserRing_withLeaf (rb : Byte) (hk : k' = thenNext k a.withLeaf) :
    onUserRing rb (a.withLeaf s) k' = thenNext (onUserRing rb s k) a.withLeaf :=
  whenFree_withLeaf (thenNext_ite _ rfl (thenNext_ite _ rfl hk))

/-- Behind its gate each command branches on its operands or on UB, and answers or raises. -/
theorem exec_withLeaf_of_leafOp {i : Instr} (hi : leafOp i = true) :
    exec i (a.withLeaf s) = thenNext (exec i s) a.withLeaf := by
  cases i with
  | addrLen _ => exact whenFree_withLeaf (thenNext_ite _ rfl rfl)
  | addrMake _ _ => exact whenFree_withLeaf (thenNext_ite _ rfl (thenNext_ite _ rfl rfl))
  | fcfUnpack _ => exact whenFree_withLeaf rfl
  | fcfPack _ => exact whenFree_withLeaf (thenNext_ite _ rfl rfl)
  | parse raw =>
    refine whenFree_withLeaf ?_
    cases parse raw <;> rfl
  | build cap fcf seq destPan srcPan destAddr srcAddr payload =>
    refine whenFree_withLeaf ?_
    cases build (operandFrame fcf seq destPan srcPan destAddr srcAddr payload) cap.toNat <;> rfl
  | rbResize rb _ => exact onUserRing_withLeaf rb (thenNext_ite _ rfl rfl)
  | rbWrite rb _ | rbWriteArray rb _ | rbRead rb | rbReadArray rb _ | rbPeek rb | rbAvailable rb
  | rbAvailableForWrite rb | rbIsFull rb | rbIsEmpty rb => exact onUserRing_withLeaf rb rfl
  | _ => cases hi

end Leaf

/-! ### Commands that look at `LIVE` (R346) -/

/-- The commands that need a session stand behind the gate of a live session. -/
theorem exec_eq_whenLive {i : Instr} {b : Byte} {n : Half} {timeout : Word32} (s : State)
    (hi : i ∈ [Instr.tWrite b, .tFlush, .tReceive, .tRead, .tReadBytes n timeout, .tAvailable, .tMeta, .tEnd]) :
    ∃ k, exec i s = whenLive s k := by
  simp only [List.mem_cons, List.not_mem_nil, or_false] at hi
  rcases hi with rfl | rfl | rfl | rfl | rfl | rfl | rfl | rfl <;> exact ⟨_, rfl⟩

/-- Settles O58: the first part from the gates, the others from what each command says of `LIVE`. -/
theorem leafCommandsIgnoreTheSession : Obligations.LeafCommandsIgnoreTheSession := by
  refine ⟨fun i s a hi => exec_withLeaf_of_leafOp hi, fun s b n timeout hfree hdead i hi => ?_,
    fun s idx val hfree hlive i hi => ?_⟩
  · obtain ⟨k, hgate⟩ := exec_eq_whenLive s hi
    exact hgate.trans (whenLive_of_dead s k hfree hdead)
  · rcases List.mem_pair.mp hi with rfl | rfl
    · exact exec_cfgWrite_of_refused hfree (.inl hlive)
    · exact exec_tBegin_of_live hfree hlive

/-! ### Steps whose enabling condition fails (R341) -/

section Disabled

variable {s : State}

theorem whenEnabled_of_disabled {c : Bool} (h : c = false) (k : Host.Outcome State Fault Refusal) :
    whenEnabled c s k = .next s := if_neg (ne_true_of_eq_false h)

/-- Outside the receive step no frame waits for `SEQ_VALIDATE` (R254). -/
theorem exec_seqValidate_of_no_frame (h : s.latch.rxFrame = none) : exec .seqValidate s = .next s := by
  simp only [exec, execSeqValidate, h]

end Disabled

/-- Settles O46: each step stops at the gate of its own enabling condition, a command at that of a busy port. -/
theorem disabledStepsDoNothing : Obligations.DisabledStepsDoNothing := fun _ =>
  ⟨exec_arqIssue_of_disabled, exec_arqDecide_of_disabled, fun hread => whenEnabled_of_disabled hread _,
    fun htimer => whenEnabled_of_disabled htimer _, fun hdelay => whenEnabled_of_disabled hdelay _,
    fun htimer => whenEnabled_of_disabled htimer _,
    fun hchunk => ⟨exec_sendNoconf_of_no_chunk hchunk, exec_sendConf_of_no_chunk hchunk⟩,
    exec_drain_of_unasked, exec_seqValidate_of_no_frame, fun _ hport hbusy => exec_of_busy hport hbusy⟩

end Sys2Proof.Machine

/-! ## Proofs: exceptions (60_exceptions.md)

Each command but `T_RECEIVE` does one of three things with the command port: it sends nothing, it answers OK, or it
raises an error in the state it found. The gates and the shared operations are shown to do one of the three, and the
commands are assembled from them. -/

namespace Sys2Proof.Machine

/-! ### What a command sends (R292) -/

/-- The codes of the errors a command raises: malformed, overflow, refused, illegal (R281). -/
def errorCodes : List Byte := [0x01, 0x08, 0x09, 0x0A]

/-- What a command that leads from `s` to `t` sends on the command port. An error leaves all else as it was. -/
inductive CommandAnswer (s t : State) : Prop
  /-- No response is sent in this step. -/
  | silent (h : t.io.cmdOut = s.io.cmdOut)
  /-- The response is OK with some results. -/
  | ok (results : List Byte) (h : t.io.cmdOut = s.io.cmdOut ++ [0x00 :: results])
  /-- The response is an error with no results, and nothing else happened. -/
  | error (c : Byte) (hc : c ∈ errorCodes) (h : t = s.replied [c])

section CommandAnswers

variable {s t : State} {k : Host.Outcome State Fault Refusal}

/-- A response that does not begin with OK is an error's. -/
theorem CommandAnswer.of_not_ok {c : Byte} {r : List Byte} (h : CommandAnswer s t)
    (hout : t.io.cmdOut = s.io.cmdOut ++ [c :: r]) (hc : c ≠ 0x00) :
    t = s.replied [c] ∧ r = [] ∧ c ∈ errorCodes := by
  cases h with
  | silent hsilent =>
    rw [hsilent] at hout
    exact absurd hout.symm (by simp)
  | ok results hok =>
    rw [hok] at hout
    have hsame : 0x00 = c ∧ results = r := by simpa using hout
    exact absurd hsame.1.symm hc
  | error e he heq =>
    have hsame : [e] = c :: r := by simpa [heq, State.replied] using hout
    obtain ⟨rfl, rfl⟩ := List.cons.inj hsame
    exact ⟨heq, rfl, he⟩

theorem commandAnswer_raise {e : Status} (he : e.code ∈ errorCodes) : Leads (raise s e) (CommandAnswer s) :=
  leads_next (.error _ he rfl)

theorem commandAnswer_answer (results : List Byte) (hio : t.io = s.io) : Leads (answer t results) (CommandAnswer s) :=
  leads_next (.ok results (by rw [State.respond_io, hio]; rfl))

/-! ### Behind the gates -/

theorem commandAnswer_whenFree (hk : Leads k (CommandAnswer s)) : Leads (whenFree s k) (CommandAnswer s) :=
  leads_whenFree (fun _ => .silent rfl) fun _ => hk

theorem commandAnswer_whenLive (hk : Leads k (CommandAnswer s)) : Leads (whenLive s k) (CommandAnswer s) :=
  leads_whenLive (fun _ => .silent rfl) (fun _ => .error 0x09 (by decide) rfl) fun _ _ => hk

theorem commandAnswer_onUserRing (rb : Byte) (hk : Leads k (CommandAnswer s)) :
    Leads (onUserRing rb s k) (CommandAnswer s) :=
  leads_onUserRing rb (fun _ => .silent rfl) (.error 0x0A (by decide) rfl) (.error 0x09 (by decide) rfl) fun _ => hk

/-! ### The codec commands -/

/-- Once the modes agree, a frame can only be too long (R161). -/
theorem eq_buildOverflow_of_build_eq_error {f : Frame} {cap : Nat} {e : Status} (hm : f.modesAgree = true)
    (h : build f cap = .error e) : e = .buildOverflow := by
  by_cases hlong : 255 < frameTotal f ∨ cap < frameTotal f
  · rw [build_of_too_long hm hlong] at h
    cases h
    rfl
  · rw [build, hm, Bool.not_true, if_neg Bool.false_ne_true, if_neg hlong] at h
    cases h

theorem execParse_commandAnswer (raw : List Byte) : Leads (execParse raw s) (CommandAnswer s) :=
  commandAnswer_whenFree (by
    cases parse raw with
    | some f => exact commandAnswer_answer _ rfl
    | none => exact commandAnswer_raise (by decide))

theorem execBuild_commandAnswer (cap fcf : Half) (seq : Byte) (destPan srcPan : Half)
    (destAddr srcAddr payload : List Byte) :
    Leads (execBuild cap fcf seq destPan srcPan destAddr srcAddr payload s) (CommandAnswer s) :=
  commandAnswer_whenFree (by
    cases hbuild : build (operandFrame fcf seq destPan srcPan destAddr srcAddr payload) cap.toNat with
    | ok out => exact commandAnswer_answer _ rfl
    | error e =>
      obtain rfl := eq_buildOverflow_of_build_eq_error operandFrame_modesAgree hbuild
      exact commandAnswer_raise (by decide))

/-! ### Sending and reading -/

/-- The radio's answer to a send goes to `DIAG` and never to the command port (R219). -/
theorem State.sendOnce_cmdOut (s : State) : s.sendOnce.io.cmdOut = s.io.cmdOut := by
  unfold State.sendOnce
  split <;> rfl

/-- A send that is set up defers its response; one without confirmation answers OK (R214, R215). -/
theorem State.drainAndSend_commandAnswer (hio : t.io = s.io) (c : AppCmd) (results : List Byte) :
    Leads (t.drainAndSend c results) (CommandAnswer s) := by
  by_cases hack : t.ackRequested = true
  · exact leads_of_eq (t.drainAndSend_confirmed c results hack) (.silent (congrArg Ports.cmdOut hio))
  · refine leads_of_eq (t.drainAndSend_unconfirmed c results (by simpa using hack)) (.ok results ?_)
    rw [State.respond_io, State.sendOnce_cmdOut, ← hio]
    rfl

theorem execTWrite_commandAnswer (b : Byte) : Leads (execTWrite b s) (CommandAnswer s) :=
  commandAnswer_whenLive (leads_ite _ (fun _ => commandAnswer_answer _ rfl) fun _ =>
    leads_ite _ (fun _ => State.drainAndSend_commandAnswer (s := s) (t := s.setTxb (s.tx.txb.write b)) rfl _ _) fun _ =>
      commandAnswer_answer _ rfl)

theorem execTFlush_commandAnswer : Leads (execTFlush s) (CommandAnswer s) :=
  commandAnswer_whenLive (leads_ite _ (fun _ => commandAnswer_answer _ rfl) fun _ =>
    State.drainAndSend_commandAnswer rfl _ _)

/-- A read that RXB satisfies answers OK, one that has to wait defers its response (R265). -/
theorem State.startRead_commandAnswer (s : State) (n : Nat) (timeout : Word32) :
    CommandAnswer s (s.startRead n timeout) := by
  by_cases henough : n ≤ s.rx.rxb.count
  · rw [State.startRead_of_enough henough]
    exact .ok _ rfl
  · rw [State.startRead_of_short (Nat.lt_of_not_le henough)]
    exact .silent rfl

/-! ### Every command -/

/-- Every command but `T_RECEIVE`, which answers the receive step's own statuses (R251, R292). -/
theorem exec_commandAnswer {i : Instr} (hport : i.port = .command) (hreceive : i ≠ .tReceive) :
    Leads (exec i s) (CommandAnswer s) := by
  cases i with
  | addrLen _ =>
    exact commandAnswer_whenFree (leads_ite _ (fun _ => commandAnswer_raise (by decide)) fun _ =>
      commandAnswer_answer _ rfl)
  | addrMake _ _ =>
    exact commandAnswer_whenFree (leads_ite _ (fun _ => commandAnswer_raise (by decide)) fun _ =>
      leads_ite _ (fun _ => commandAnswer_raise (by decide)) fun _ => commandAnswer_answer _ rfl)
  | fcfUnpack _ => exact commandAnswer_whenFree (commandAnswer_answer _ rfl)
  | fcfPack _ =>
    exact commandAnswer_whenFree (leads_ite _ (fun _ => commandAnswer_answer _ rfl) fun _ =>
      commandAnswer_raise (by decide))
  | parse raw => exact execParse_commandAnswer raw
  | build cap fcf seq destPan srcPan destAddr srcAddr payload =>
    exact execBuild_commandAnswer cap fcf seq destPan srcPan destAddr srcAddr payload
  | rbWrite rb _ | rbWriteArray rb _ | rbRead rb | rbReadArray rb _ | rbPeek rb | rbAvailable rb
  | rbAvailableForWrite rb | rbIsFull rb | rbIsEmpty rb =>
    exact commandAnswer_onUserRing rb (commandAnswer_answer _ rfl)
  | rbResize rb _ =>
    exact commandAnswer_onUserRing rb (leads_ite _ (fun _ => commandAnswer_raise (by decide)) fun _ =>
      commandAnswer_answer _ rfl)
  | cfgWrite _ _ =>
    exact commandAnswer_whenFree (leads_ite _ (fun _ => commandAnswer_raise (by decide)) fun _ =>
      leads_ite _ (fun _ => commandAnswer_raise (by decide)) fun _ => commandAnswer_answer _ rfl)
  | tBegin =>
    exact commandAnswer_whenFree (leads_ite _ (fun _ => commandAnswer_raise (by decide)) fun _ =>
      commandAnswer_answer _ rfl)
  | tEnd | tAvailable | tMeta => exact commandAnswer_whenLive (commandAnswer_answer _ rfl)
  | tWrite b => exact execTWrite_commandAnswer b
  | tFlush => exact execTFlush_commandAnswer
  | tReceive => exact absurd rfl hreceive
  | tRead => exact commandAnswer_whenLive (leads_next (s.startRead_commandAnswer _ _))
  | tReadBytes _ _ => exact commandAnswer_whenLive (leads_next (s.startRead_commandAnswer _ _))
  | evTxDone | evTxFailed _ | evAckTimeout | evRetryDelayDone | evReadTimeout | evRxEnqueue _ _ _ _ => cases hport
  | sendNoconf | sendConf | arqIssue | arqDecide | seqValidate | rdStep | drain | fcfWord _ => cases hport

/-- A command that has sent a response found the port free (R115). -/
theorem appCmd_none_of_response {i : Instr} {m : List Byte} (hport : i.port = .command) (h : exec i s = .next t)
    (hout : t.io.cmdOut = s.io.cmdOut ++ [m]) : s.appCmd = .none := by
  by_contra hbusy
  obtain rfl : s = t := Host.Outcome.next.inj ((exec_of_busy hport hbusy).symm.trans h)
  exact absurd hout.symm (by simp)

end CommandAnswers

/-- Settles O59: a response other than OK is an error's, which a busy port does not send. -/
theorem errorsChangeNothing : Obligations.ErrorsChangeNothing := by
  intro i s t c r hport hreceive h hout hc
  obtain ⟨rfl, hr, he⟩ := (exec_commandAnswer hport hreceive t h).of_not_ok hout hc
  have hfree : s.appCmd = .none := appCmd_none_of_response hport h hout
  exact ⟨rfl, hr, hfree, by simpa [errorCodes] using he⟩

end Sys2Proof.Machine

/-! ## Proofs: reset and hazards (70_reset_and_hazards.md)

The reset turn is followed to the state it leads to. That sessions do not leak is shown of one state at a time: what
`CFG_WRITE`s and a `T_BEGIN` reach with no session live is said in terms of the configuration alone, so that two
states with the same configuration reach the same session. -/

namespace Sys2Proof.Machine

/-! ### The reset input (R320 to R322) -/

/-- A turn that asserts the reset input is used up and leads to the reset state. -/
theorem step_of_reset_turn {s : State} {a : Bool} {rest : List Turn} (h : s.io.schedule = ⟨.reset, a⟩ :: rest) :
    step s = .next (s.startTurn ⟨.reset, a⟩ rest).hardReset := step_of_pass (fetch_of_turn h)

/-- The legal modes are None, Short and Extended (R37). -/
theorem toNat_mem_of_ne_reserved {v : BitVec 2} (h : v ≠ 1) : v.toNat ∈ [0, 2, 3] := by
  have hlt : v.toNat < 4 := v.isLt
  have hne : v.toNat ≠ 1 := fun he => h (BitVec.eq_of_toNat_eq he)
  simp only [List.mem_cons, List.not_mem_nil, or_false]
  omega

/-- Settles O2: the registers are those of `State.hardReset`, whose mode registers hold a legal mode. -/
theorem hardwareReset : Obligations.HardwareReset := by
  intro s a rest hturn
  refine ⟨_, step_of_reset_turn hturn, ⟨rfl, rfl⟩, ⟨rfl, rfl, rfl, rfl, rfl, rfl, rfl⟩, ⟨rfl, rfl, rfl⟩,
    ⟨rfl, rfl, rfl, rfl, rfl, rfl⟩, fun rb hrb => ?_,
    ⟨toNat_mem_of_ne_reserved (legalMode_ne_reserved _), toNat_mem_of_ne_reserved (legalMode_ne_reserved _)⟩,
    rfl, rfl, rfl⟩
  have hempty : rb = .empty := by
    simp only [List.mem_cons, List.not_mem_nil, or_false] at hrb
    rcases hrb with rfl | rfl | rfl <;> rfl
  exact hempty ▸ ⟨rfl, rfl, rfl, rfl⟩

/-! ### A session depends on the configuration only (R323) -/

/-- The configuration after a `CFG_WRITE` with no session live: unchanged where R210 refuses the write. -/
def CfgRegs.afterWrite (c : CfgRegs) (w : Byte × Word64) : CfgRegs :=
  if cfgRefused w.1.toNat w.2 = true then c else c.write w.1.toNat w.2

/-- `t` stands right after a `T_BEGIN` with the configuration `c` (R211). -/
structure State.Begun (c : CfgRegs) (t : State) : Prop where
  live : t.live = true
  appCmd : t.appCmd = .none
  cfg : t.cfg = c
  tx : t.tx = .fresh c.txCap.toNat Config.seqInit
  rd : t.rd = .reset
  latch : t.latch = .clear
  rxb : t.rx.rxb = .resize c.rxCap.toNat
  lastSeqValid : t.rx.lastSeqValid = false
  pendValid : t.rx.pendValid = false
  metaValid : t.rx.metaValid = false

section NoSession

variable {s : State} (hfree : s.appCmd = .none) (hdead : s.live = false)

include hfree hdead

/-- Refused or not, a `CFG_WRITE` is answered, starts no session and leaves the port free (R210). -/
theorem exec_cfgWrite_of_dead (w : Byte × Word64) :
    ∃ t, exec (.cfgWrite w.1 w.2) s = .next t ∧ t.appCmd = .none ∧ t.live = false
      ∧ t.cfg = s.cfg.afterWrite w := by
  by_cases hrefused : cfgRefused w.1.toNat w.2 = true
  · exact ⟨_, exec_cfgWrite_of_refused hfree (.inr hrefused), hfree, hdead, (if_pos hrefused).symm⟩
  · exact ⟨_, exec_cfgWrite_of_legal hfree hdead hrefused, hfree, hdead, (if_neg hrefused).symm⟩

theorem exec_tBegin_begun : ∃ t, exec .tBegin s = .next t ∧ t.Begun s.cfg :=
  ⟨_, exec_tBegin_of_dead hfree hdead, rfl, rfl, rfl, rfl, rfl, rfl, rfl, rfl, rfl, rfl⟩

/-- `CFG_WRITE`s and a `T_BEGIN` run to the end, and the session begins with the configuration they wrote. -/
theorem runOps_cfgWrites_tBegin (ws : List (Byte × Word64)) :
    ∃ t, runOps (ws.map (fun w => (Instr.cfgWrite w.1 w.2, false)) ++ [(.tBegin, false)]) s = .next t
      ∧ t.Begun (ws.foldl CfgRegs.afterWrite s.cfg) := by
  induction ws generalizing s with
  | nil =>
    obtain ⟨t, hbegin, ht⟩ := exec_tBegin_begun (s := s.answering false) hfree hdead
    exact ⟨t, runOps_cons hbegin [], ht⟩
  | cons w ws ih =>
    obtain ⟨u, hwrite, hfree, hdead, hcfg⟩ := exec_cfgWrite_of_dead (s := s.answering false) hfree hdead w
    obtain ⟨t, hrun, ht⟩ := ih hfree hdead
    rw [hcfg] at ht
    exact ⟨t, (runOps_cons hwrite _).trans hrun, ht⟩

end NoSession

/-- Settles O35: `T_END` leaves no session and the configuration as it was, and from there on both runs begin a session
with the same configuration. -/
theorem sessionsDoNotLeak : Obligations.SessionsDoNotLeak := by
  intro s s0 ws hlive hfree hdead0 hfree0 hcfg
  have hend : exec .tEnd (s.answering false) = .next (((s.answering false).setSession false 0 0 0).replied [0x00]) :=
    exec_tEnd_of_live hfree hlive
  obtain ⟨t, hrun, ht⟩ :=
    runOps_cfgWrites_tBegin (s := ((s.answering false).setSession false 0 0 0).replied [0x00]) rfl rfl ws
  obtain ⟨t0, hrun0, ht0⟩ := runOps_cfgWrites_tBegin hfree0 hdead0 ws
  have ht : t.Begun (ws.foldl CfgRegs.afterWrite s0.cfg) := hcfg ▸ ht
  exact ⟨t, t0, (runOps_cons hend _).trans hrun, hrun0, ht.live, ht0.live, ht.appCmd.trans ht0.appCmd.symm,
    ht.cfg.trans ht0.cfg.symm, ht.tx.trans ht0.tx.symm, ht.rd.trans ht0.rd.symm, ht.latch.trans ht0.latch.symm,
    ht.rxb.trans ht0.rxb.symm, ht.lastSeqValid.trans ht0.lastSeqValid.symm, ht.pendValid.trans ht0.pendValid.symm,
    ht.metaValid.trans ht0.metaValid.symm⟩

end Sys2Proof.Machine
